-- ==== Sys2Proof/Word.lean ====
section
/-! DEFINITION. The words the block computes with: bytes, 16-bit words and byte strings
(spec/00_scope.md R8, R11, R12). No value of this block is signed. -/

namespace Sys2Proof

/-- `u8`, an unsigned 8-bit value (R11). -/
abbrev Byte := BitVec 8

/-- `u16`, an unsigned 16-bit value (R11). -/
abbrev U16 := BitVec 16

/-- `Bytes`, a finite list of `u8`; index 0 is the first byte on the wire (R12, R52). -/
abbrev Bytes := List Byte

end Sys2Proof
end

