-- ==== Sys2Proof/Machine/Bytes.lean ====
section
/-! DEFINITION. Byte access and byte order (spec/00_scope.md R12, R13; spec/20_memory.md R52, R53). -/

namespace Sys2Proof.Machine

/-- `B[i]`; every rule uses it inside the string only (beyond the end it answers 0). -/
def byteAt (b : Bytes) (i : Nat) : Byte := b.getD i 0

/-- `lo8(v) = v[7:0]` (R13). -/
def lo8 (v : U16) : Byte := v.extractLsb' 0 8

/-- `hi8(v) = v[15:8]` (R13). -/
def hi8 (v : U16) : Byte := v.extractLsb' 8 8

/-- `le16(v) = [v[7:0], v[15:8]]` (R13). -/
def le16 (v : U16) : Bytes := [lo8 v, hi8 v]

/-- `be16(v) = [v[15:8], v[7:0]]` (R13). -/
def be16 (v : U16) : Bytes := [hi8 v, lo8 v]

/-- The 16-bit value with low byte `lo` and high byte `hi`: `zext_16(lo) | (zext_16(hi) << 8)` (R13). -/
def join16 (lo hi : Byte) : U16 := lo.setWidth 16 ||| (hi.setWidth 16 <<< 8)

/-- `u16le(B, i)` (R13). -/
def u16le (b : Bytes) (i : Nat) : U16 := join16 (byteAt b i) (byteAt b (i + 1))

/-- `u16be(B, i)` (R13). -/
def u16be (b : Bytes) (i : Nat) : U16 := join16 (byteAt b (i + 1)) (byteAt b i)

/-- The 16-bit words of a byte string, each high byte first (R53, R74 "words (big-endian)"); none where a byte is left
over. -/
def beWords : Bytes → Option (List U16)
  | [] => some []
  | [_] => none
  | hi :: lo :: rest =>
    match beWords rest with
    | some words => some (join16 lo hi :: words)
    | none => none

/-- The byte string of 16-bit words, each high byte first (R53). -/
def wordBytesBe (words : List U16) : Bytes := words.flatMap be16

/-- The bits of a byte string in the packing of R76: bit 0 of the first byte first (log entry 15). -/
def unpackBits (data : Bytes) : List Bool := data.flatMap fun b => (List.range 8).map b.getLsbD

/-- One packed byte: the first bit in bit 0, and 0 where the list has ended (R76; log entry 15). -/
def packByte (bits : List Bool) : Byte :=
  (List.range 8).foldl (fun b i => if bits.getD i false then b ||| (1#8 <<< i) else b) 0

/-- Bits packed as R76 says: ceil(n / 8) bytes, the first bit in bit 0 of the first byte, the last byte padded with 0
bits (log entry 15). -/
def packBits (bits : List Bool) : Bytes :=
  (List.range ((bits.length + 7) / 8)).map fun k => packByte (bits.drop (8 * k))

end Sys2Proof.Machine
end

