-- ==== Sys2Proof/Machine/Crc.lean ====
section
/-! DEFINITION. The CRC computation of spec/41_crc.md (R101 to R105). The working register `crc` of R22 is the
accumulator of `crc16`: it exists only inside one operation. -/

namespace Sys2Proof.Machine

/-- The constant 0xA001 of R101. -/
def crcPoly : U16 := 0xA001

/-- The initial value 0xFFFF of R103. -/
def crcInit : U16 := 0xFFFF

/-- One turn of the loop of R101: shift right, and XOR the constant in when the bit shifted out is 1. -/
def crcBit (c : U16) : U16 := if c.getLsbD 0 then (c >>> 1) ^^^ crcPoly else c >>> 1

/-- `repeat n times` of R101. -/
def crcShift : Nat → U16 → U16
  | 0, c => c
  | n + 1, c => crcShift n (crcBit c)

/-- `CRC_STEP(c, b)` (R101): the byte enters the low byte, then eight shifts. -/
def crcStep (c : U16) (b : Byte) : U16 := crcShift 8 (c ^^^ b.setWidth 16)

/-- One shift of the bit-serial unit of R102, for the data bit `d`. -/
def crcSerialBit (c : U16) (d : Bool) : U16 :=
  if c.getLsbD 0 != d then (c >>> 1) ^^^ crcPoly else c >>> 1

/-- The bit-serial unit of R102 on one byte, least-significant bit first. -/
def crcSerialStep (c : U16) (b : Byte) : U16 :=
  (List.range 8).foldl (fun c i => crcSerialBit c (b.getLsbD i)) c

/-- `CRC16(B)` (R103): no final XOR, no byte swap. -/
def crc16 (b : Bytes) : U16 := b.foldl crcStep crcInit

/-- `VALIDATE(F)` (R105): a string of fewer than 2 bytes is false (D5). -/
def validate (f : Bytes) : Bool :=
  if f.length < 2 then false else crc16 (f.take (f.length - 2)) == u16le f (f.length - 2)

/-- The CRC of an RTU frame's body, `CRC16([address, function] ++ payload)` (R23, R122). -/
def bodyCrc (address function : Byte) (payload : Bytes) : U16 := crc16 (address :: function :: payload)

end Sys2Proof.Machine
end

