-- ==== Sys2Proof/Config.lean ====
section
/-! DEFINITION. The static configuration CFG (spec/10_state.md R21, spec/00_scope.md R7), the strap values that
`State.reset` loads, and the free values: the draws of the environment where a state lists none (R30, R31, R9). -/

namespace Sys2Proof

/-- `CFG.framing`, the boundary-detection policy (R21: 0 = `FIXED_PREFIX`, 1 = `SILENCE`). -/
inductive Framing where
  | fixedPrefix
  | silence
deriving DecidableEq, Repr

/-- `CFG.broadcast`, what a valid address-0 frame does (R21: 0 = `EMIT`, 1 = `DROP`). -/
inductive BroadcastPolicy where
  | emit
  | drop
deriving DecidableEq, Repr

/-- The read-only record CFG of R21, one field per parameter of R7.
A port handle is opaque in the spec; only its equality matters here, so it is a number. -/
structure Cfg where
  /-- `CFG.num_ports`: number of serial ports, one reassembler each. -/
  numPorts : Nat
  /-- `CFG.port_id[p]`, listed by p: the handle stamped on port p's Requests. -/
  portIds : List Nat
  /-- `CFG.framing`. -/
  framing : Framing
  /-- `CFG.broadcast`. -/
  broadcast : BroadcastPolicy
  /-- `CFG.read_chunk`: most bytes one port read returns. -/
  readChunk : Nat
  /-- `CFG.max_frame`: most bytes one candidate frame may hold. -/
  maxFrame : Nat
  /-- `CFG.read_timeout`, a positive duration in a unit the spec does not give; no rule reads it (R21, D28). -/
  readTimeout : Nat
  /-- `CFG.check_protocol_id`, hardwired `false` (R21, R144). -/
  checkProtocolId : Bool
deriving DecidableEq, Repr

/-- The legal values of R7 and R21: handles pairwise distinct, `read_chunk ≥ 1`, `max_frame ≥ 8`,
`read_timeout > 0`, `check_protocol_id = false`. -/
abbrev Cfg.Legal (c : Cfg) : Prop :=
  c.portIds.length = c.numPorts ∧ c.portIds.Nodup ∧ 1 ≤ c.readChunk ∧ 8 ≤ c.maxFrame ∧
    0 < c.readTimeout ∧ c.checkProtocolId = false

/-- One item of what a port's byte stream will show the block (R30): some bytes in arrival order,
a read during which no byte arrived, or a failed read. -/
inductive Arrival where
  | bytes (bs : Bytes)
  | silence
  | error
deriving DecidableEq, Repr, Inhabited

namespace Config

/-- The strap values `State.reset` loads: the "Default CFG" of spec/95_test_vectors.md section 2.6
(SILENCE, EMIT, max_frame 256, read_chunk 256, one port). Every other legal record is
`State.resetWith`'s argument. DESIGN CHOICE (the straps are OPEN, R21), unsafe: log entry 1. -/
def straps : Cfg where
  numPorts := 1
  portIds := [0]
  framing := .silence
  broadcast := .emit
  readChunk := 256
  maxFrame := 256
  readTimeout := 1
  checkProtocolId := false

/-- FREE VALUE: what port `p` shows at its `n`-th draw, where the state lists no further arrival.
"Which outcome a read returns is a draw of the environment" (R30). Log entry 4. -/
opaque arrival (p n : Nat) : Arrival

/-- FREE VALUE: whether the sink accepts at its `n`-th draw, where the state lists no further answer (R31).
Log entry 5. -/
opaque sinkAccepts (n : Nat) : Bool

/-- FREE VALUE: which agent moves at the `n`-th draw, where the state lists no further turn: `none` when the
environment asserts SHUTDOWN, `some k` when it schedules reassembler `k` (modulo their number).
"A step is taken whenever the agent is scheduled; the order of steps across ports is free" (R9). Log entry 6. -/
opaque scheduled (n : Nat) : Option Nat

end Config

end Sys2Proof
end

