-- ==== Sys2Proof/Syntax.lean ====
section
/-! DEFINITION. The syntax: the frame records of spec/10_state.md R23 and R24, the step selector of
spec/30_encoding.md R86, and `Instr`, one constructor per row of spec/opcode_table.json
(formats CMD, RA and PDU-FC). -/

namespace Sys2Proof

/-- An RTU Frame (R23). Its invariant `crc = crc16([address, function] ++ payload)` is checked by
`RtuFrame.wellFormed`. -/
structure RtuFrame where
  address : Byte
  function : Byte
  payload : Bytes
  crc : U16
deriving DecidableEq, Repr

/-- A TCP Frame (R24). The MBAP length field is not stored. -/
structure TcpFrame where
  transactionId : U16
  protocolId : U16
  unitId : Byte
  function : Byte
  payload : Bytes
deriving DecidableEq, Repr

/-- A Frame of either variant ("polymorphic over {RTU, TCP} variants", R16, R166). -/
inductive Frame where
  | rtu (f : RtuFrame)
  | tcp (f : TcpFrame)
deriving DecidableEq, Repr

/-- The FrameError reasons of spec/60_exceptions.md R221. -/
inductive FrameError where
  | tooShort
  | badCrc
  | lengthMismatch
deriving DecidableEq, Repr

/-- `ls[p].phase` (R26: encoded 0, 1, 2). -/
inductive Phase where
  | idle
  | accumulating
  | ready
deriving DecidableEq, Repr

/-- The event of a reassembler step (R86: `EV_DATA` 0, `EV_EMPTY` 1, `EV_NONE` 2, `EV_SHUTDOWN` 3). -/
inductive Event where
  | data
  | empty
  | none
  | shutdown
deriving DecidableEq, Repr

/-- What DECODE_RTU says of the accumulated packet, as far as the READY rows of R86 look:
a FrameError, a frame with address ≠ 0, a frame with address 0. -/
inductive Verdict where
  | frameError
  | addressed
  | broadcast
deriving DecidableEq, Repr

/-- All that selects a reassembler step: the columns Phase, Event, Policy and Condition of R86. -/
structure StepKey where
  phase : Phase
  event : Event
  framing : Framing
  broadcast : BroadcastPolicy
  /-- the condition `packet = []` -/
  packetEmpty : Bool
  /-- the condition `error = true` -/
  error : Bool
  verdict : Verdict
deriving DecidableEq, Repr

/-- The step kinds of R86, in its order. -/
inductive StepKind where
  | shutdown
  | idleDrain
  | idleAdvance
  | silAppend
  | silWait
  | silBoundary
  | fixAppend
  | fixWait
  | fixAbort
  | readyError
  | readyInvalid
  | readyEmit
  | readyBcastDrop
deriving DecidableEq, Repr

/-- The instructions: one constructor per row of spec/opcode_table.json, in its order.
CMD rows carry their operand values (R85); RA rows the port `p` whose reassembler takes the step (R86);
PDU-FC rows the payload that follows the function byte, and the function byte where the row leaves it open
(R74, R77, R79). -/
inductive Instr where
  /-- CRC16, code 0x01 (R103). -/
  | crc16 (b : Bytes)
  /-- VALIDATE, code 0x02 (R105). -/
  | validate (f : Bytes)
  /-- DECODE_RTU, code 0x10 (R121). -/
  | decodeRtu (b : Bytes)
  /-- DECODE_TCP, code 0x11 (R141). -/
  | decodeTcp (b : Bytes)
  /-- GET_ADDRESS, code 0x20 (R160). -/
  | getAddress (f : Frame)
  /-- GET_FUNCTION, code 0x21 (R161). -/
  | getFunction (f : Frame)
  /-- GET_PAYLOAD, code 0x22 (R162). -/
  | getPayload (f : Frame)
  /-- SET_PAYLOAD, code 0x28 (R163). -/
  | setPayload (f : Frame) (payload : Bytes)
  /-- SET_EXCEPTION, code 0x29 (R164). -/
  | setException (f : Frame) (e : Byte)
  /-- COPY_AS_RESPONSE, code 0x2A (R165). -/
  | copyAsResponse (f : Frame)
  /-- TO_BYTES, code 0x30 (R166). -/
  | toBytes (f : Frame)
  /-- RA_SHUTDOWN (R183). -/
  | raShutdown (p : Nat)
  /-- RA_IDLE_DRAIN (R184). -/
  | raIdleDrain (p : Nat)
  /-- RA_IDLE_ADVANCE (R184). -/
  | raIdleAdvance (p : Nat)
  /-- RA_SIL_APPEND (R186). -/
  | raSilAppend (p : Nat)
  /-- RA_SIL_WAIT (R186). -/
  | raSilWait (p : Nat)
  /-- RA_SIL_BOUNDARY (R186). -/
  | raSilBoundary (p : Nat)
  /-- RA_FIX_APPEND (R188). -/
  | raFixAppend (p : Nat)
  /-- RA_FIX_WAIT (R188). -/
  | raFixWait (p : Nat)
  /-- RA_FIX_ABORT (R188). -/
  | raFixAbort (p : Nat)
  /-- RA_READY_ERROR (R190). -/
  | raReadyError (p : Nat)
  /-- RA_READY_INVALID (R192). -/
  | raReadyInvalid (p : Nat)
  /-- RA_READY_EMIT (R191). -/
  | raReadyEmit (p : Nat)
  /-- RA_READY_BCAST_DROP (R193). -/
  | raReadyBcastDrop (p : Nat)
  /-- Function code 0x01, Read Coils (R74). -/
  | fc01ReadCoils (payload : Bytes)
  /-- Function code 0x02, Read Discrete Inputs (R74). -/
  | fc02ReadDiscreteInputs (payload : Bytes)
  /-- Function code 0x03, Read Holding Registers (R74). -/
  | fc03ReadHoldingRegisters (payload : Bytes)
  /-- Function code 0x04, Read Input Registers (R74). -/
  | fc04ReadInputRegisters (payload : Bytes)
  /-- Function code 0x05, Write Single Coil (R74). -/
  | fc05WriteSingleCoil (payload : Bytes)
  /-- Function code 0x06, Write Holding Register (R74). -/
  | fc06WriteHoldingRegister (payload : Bytes)
  /-- Function code 0x0F, Write Multiple Coils (R74). -/
  | fc0FWriteMultipleCoils (payload : Bytes)
  /-- Function code 0x10, Write Multiple Holding Registers (R74). -/
  | fc10WriteMultipleHoldingRegisters (payload : Bytes)
  /-- A function byte with bit 7 set: the exception form `function | 0x80, code` (R77). -/
  | fcException (function : Byte) (payload : Bytes)
  /-- Every other function byte: 0x00, 0x07 to 0x0E, 0x11 to 0x7F (R79). -/
  | fcOther (function : Byte) (payload : Bytes)
deriving DecidableEq, Repr

/-- How an instruction reaches the block, by the table's format column. -/
inductive Code where
  /-- CMD: a command byte followed by its marshalled operands (R85). -/
  | command (bytes : Bytes)
  /-- PDU-FC: a function byte followed by its payload (R73, R74). -/
  | pdu (bytes : Bytes)
  /-- RA: the selector of a step of reassembler `p` (R86). -/
  | select (key : StepKey) (p : Nat)
deriving DecidableEq, Repr

/-- The payload fields of a request (R75). -/
inductive RequestFields where
  /-- codes 1 to 4: start, count -/
  | read (start count : U16)
  /-- codes 5 and 6: addr, value -/
  | write (addr value : U16)
  /-- code 15: start, count, byteCount and the data bytes; `coils` are the values the data hold in the packing of
  R76, none where they are not `count` coils packed that way (log entry 15) -/
  | writeCoils (start count : U16) (byteCount : Byte) (data : Bytes) (coils : Option (List Bool))
  /-- code 16: start, count, byteCount and the data bytes; `words` are the 16-bit words the data hold, high byte first
  (R53), none where the data are not whole words -/
  | writeRegisters (start count : U16) (byteCount : Byte) (data : Bytes) (words : Option (List U16))
deriving DecidableEq, Repr

/-- The payload fields of a normal response (R76). -/
inductive ResponseFields where
  /-- codes 1 and 2: byteCount and the data bytes; `coils` are their bits in the packing of R76 (log entry 15), those
  past the request's count being the padding -/
  | coils (byteCount : Byte) (data : Bytes) (coils : List Bool)
  /-- codes 3 and 4: byteCount and the register words, read high byte first (R53), byteCount twice their number -/
  | registers (byteCount : Byte) (words : List U16)
  /-- codes 5 and 6: the request payload unchanged (addr, value) -/
  | echoWrite (addr value : U16)
  /-- codes 15 and 16: start and count -/
  | echoRange (start count : U16)
deriving DecidableEq, Repr

/-- What the spec says a PDU of one function-code form is (R74 to R77, R187). -/
structure PduView where
  function : Byte
  /-- bit 7 of the function byte (R25, R77) -/
  exceptionBit : Bool
  /-- the request fields of R75, where the payload has that layout -/
  request : Option RequestFields
  /-- the response fields of R76, where the payload has that layout -/
  response : Option ResponseFields
  /-- the response payload that R74 fixes from the request alone ("echo of request", "echo of addr+count") -/
  echo : Option Bytes
  /-- the exception-code byte of R77 -/
  exceptionCode : Option Byte
  /-- the total RTU length FIXED_PREFIX gives a frame of this form (R187); none where the form's
  byteCount byte is not in the payload -/
  frameLen : Option Nat
deriving DecidableEq, Repr

/-- The value of a CRC, codec or function-code operation (R15: a u16, a Bool, a byte, Bytes or a Frame;
or the FrameError outcome). -/
inductive CmdResult where
  | word (v : U16)
  | bool (b : Bool)
  | byte (b : Byte)
  | bytes (bs : Bytes)
  | frame (f : Frame)
  | frameError (reason : FrameError)
  | pdu (v : PduView)
deriving DecidableEq, Repr

end Sys2Proof
end

