-- ==== Sys2Proof/WellFormed.lean ====
section
/-! DEFINITION. Which instructions are well-formed: every Frame operand is a Frame value (R23's invariant), and the
open function bytes of the PDU-FC rows lie in their row's range (R77, R79). -/

namespace Sys2Proof

/-- R23's invariant: `crc = crc16([address, function] ++ payload)`. -/
def RtuFrame.wellFormed (f : RtuFrame) : Bool := f.crc == Machine.bodyCrc f.address f.function f.payload

/-- A Frame operand is of the type R85 gives it when an RTU frame keeps R23's invariant; a TCP frame has none (R24). -/
def Frame.wellFormed : Frame → Bool
  | .rtu f => f.wellFormed
  | .tcp _ => true

/-- Bit 7 of a function byte, the exception bit (R25). -/
def exceptionByte (function : Byte) : Bool := function.getLsbD 7

/-- The function codes with a row of their own in R74. -/
def listedFunctions : List Byte := [0x01, 0x02, 0x03, 0x04, 0x05, 0x06, 0x0F, 0x10]

/-- The operand checks of `Instr`. -/
def Instr.wellFormed : Instr → Bool
  | .crc16 _ => true
  | .validate _ => true
  | .decodeRtu _ => true
  | .decodeTcp _ => true
  | .getAddress f => f.wellFormed
  | .getFunction f => f.wellFormed
  | .getPayload f => f.wellFormed
  | .setPayload f _ => f.wellFormed
  | .setException f _ => f.wellFormed
  | .copyAsResponse f => f.wellFormed
  | .toBytes f => f.wellFormed
  | .raShutdown _ => true
  | .raIdleDrain _ => true
  | .raIdleAdvance _ => true
  | .raSilAppend _ => true
  | .raSilWait _ => true
  | .raSilBoundary _ => true
  | .raFixAppend _ => true
  | .raFixWait _ => true
  | .raFixAbort _ => true
  | .raReadyError _ => true
  | .raReadyInvalid _ => true
  | .raReadyEmit _ => true
  | .raReadyBcastDrop _ => true
  | .fc01ReadCoils _ => true
  | .fc02ReadDiscreteInputs _ => true
  | .fc03ReadHoldingRegisters _ => true
  | .fc04ReadInputRegisters _ => true
  | .fc05WriteSingleCoil _ => true
  | .fc06WriteHoldingRegister _ => true
  | .fc0FWriteMultipleCoils _ => true
  | .fc10WriteMultipleHoldingRegisters _ => true
  | .fcException function _ => exceptionByte function
  | .fcOther function _ => !exceptionByte function && !listedFunctions.contains function

end Sys2Proof
end

