-- ==== Sys2Proof/Decode.lean ====
section
/-! DEFINITION. The decoder and the encoder, from the encodings of spec/30_encoding.md R85 (commands), R86 (step
kinds) and R74, R77, R79 (function codes). Decoding is total and rejects by name. The marshalling of command operands
is the model's own: "Their marshalling is not fixed, because the block has no command bus" (R85; log entry 2). -/

namespace Sys2Proof

/-- Why a code has no instruction. -/
inductive DecodeError where
  /-- a command with no code byte -/
  | noCode
  /-- a command code outside the table of R85 -/
  | unassigned (code : Byte)
  /-- the operands end too early -/
  | truncated
  /-- a continuation marker other than 0 and 1 (log entry 2) -/
  | badMarker (marker : Byte)
  /-- a Frame variant tag other than 0 (RTU) and 1 (TCP) (log entry 2) -/
  | badVariant (tag : Byte)
  /-- bytes after the last operand -/
  | trailing
  /-- a PDU with no function byte -/
  | emptyPdu
  /-- a (phase, event) pair with no row in R86 -/
  | noSuchStep
deriving DecidableEq, Repr

/-! ### The numbers the spec gives its names -/

/-- R21. -/
def Framing.code : Framing → Nat
  | .fixedPrefix => 0
  | .silence => 1

/-- R21. -/
def BroadcastPolicy.code : BroadcastPolicy → Nat
  | .emit => 0
  | .drop => 1

/-- R26. -/
def Phase.code : Phase → Nat
  | .idle => 0
  | .accumulating => 1
  | .ready => 2

/-- R86. -/
def Event.code : Event → Nat
  | .data => 0
  | .empty => 1
  | .none => 2
  | .shutdown => 3

/-- R221. -/
def FrameError.code : FrameError → Nat
  | .tooShort => 1
  | .badCrc => 2
  | .lengthMismatch => 3

/-! ### Reading operands (log entry 2) -/

/-- A reader takes an operand off the front of a byte string and leaves the rest. -/
abbrev Reader (α : Type) := Bytes → Except DecodeError (α × Bytes)

/-- Run a reader, then a second one that may use the first's answer. -/
def Reader.andThen {α β : Type} (r : Reader α) (f : α → Reader β) : Reader β := fun bs =>
  match r bs with
  | .ok (a, rest) => f a rest
  | .error e => .error e

/-- Apply a function to a reader's answer. -/
def Reader.map {α β : Type} (f : α → β) (r : Reader α) : Reader β := fun bs =>
  match r bs with
  | .ok (a, rest) => .ok (f a, rest)
  | .error e => .error e

/-- A `u8` operand. -/
def readByte : Reader Byte
  | [] => .error .truncated
  | b :: rest => .ok (b, rest)

/-- A 16-bit operand, high byte first (R53). -/
def readWord : Reader U16
  | hi :: lo :: rest => .ok (Machine.join16 lo hi, rest)
  | _ => .error .truncated

/-- A `Bytes` operand: each byte after a marker 1, and a marker 0 after the last. -/
def readBytes : Reader Bytes
  | [] => .error .truncated
  | [m] => if m = 0 then .ok ([], []) else if m = 1 then .error .truncated else .error (.badMarker m)
  | m :: b :: rest =>
    if m = 0 then .ok ([], b :: rest)
    else if m = 1 then
      match readBytes rest with
      | .ok (bs, r) => .ok (b :: bs, r)
      | .error e => .error e
    else .error (.badMarker m)

/-- An RTU frame operand: address, function, payload. Its `crc` is the one R23 fixes, so every frame read is a
Frame value. -/
def readRtu : Reader RtuFrame :=
  readByte.andThen fun a => readByte.andThen fun f => readBytes.map fun pl =>
    { address := a, function := f, payload := pl, crc := Machine.bodyCrc a f pl }

/-- A TCP frame operand: transactionId, protocolId, unitId, function, payload. -/
def readTcp : Reader TcpFrame :=
  readWord.andThen fun t => readWord.andThen fun pr => readByte.andThen fun u => readByte.andThen fun f =>
    readBytes.map fun pl =>
      { transactionId := t, protocolId := pr, unitId := u, function := f, payload := pl }

/-- A Frame operand: a variant tag, then the record's fields. -/
def readFrame : Reader Frame := readByte.andThen fun tag =>
  if tag = 0 then readRtu.map .rtu
  else if tag = 1 then readTcp.map .tcp
  else fun _ => .error (.badVariant tag)

/-! ### Commands (R85) -/

/-- The operands of the command with this code, or the refusal of an unassigned code. -/
def readOperands (code : Byte) : Reader Instr :=
  match code.toNat with
  | 0x01 => readBytes.map .crc16
  | 0x02 => readBytes.map .validate
  | 0x10 => readBytes.map .decodeRtu
  | 0x11 => readBytes.map .decodeTcp
  | 0x20 => readFrame.map .getAddress
  | 0x21 => readFrame.map .getFunction
  | 0x22 => readFrame.map .getPayload
  | 0x28 => readFrame.andThen fun f => readBytes.map (.setPayload f)
  | 0x29 => readFrame.andThen fun f => readByte.map (.setException f)
  | 0x2A => readFrame.map .copyAsResponse
  | 0x30 => readFrame.map .toBytes
  | _ => fun _ => .error (.unassigned code)

/-- A command at the front of a byte string, and what is left. -/
def readCommand : Reader Instr
  | [] => .error .noCode
  | code :: rest => readOperands code rest

/-- A command is its code byte followed by its operands, and nothing after them (R85). -/
def decodeCommand (bs : Bytes) : Except DecodeError Instr :=
  match readCommand bs with
  | .ok (i, []) => .ok i
  | .ok (_, _ :: _) => .error .trailing
  | .error e => .error e

/-! ### Function codes (R74, R77, R79) -/

/-- The row of a function byte. No function byte is illegal (R79). -/
def functionForm (function : Byte) (payload : Bytes) : Instr :=
  match function.toNat with
  | 0x01 => .fc01ReadCoils payload
  | 0x02 => .fc02ReadDiscreteInputs payload
  | 0x03 => .fc03ReadHoldingRegisters payload
  | 0x04 => .fc04ReadInputRegisters payload
  | 0x05 => .fc05WriteSingleCoil payload
  | 0x06 => .fc06WriteHoldingRegister payload
  | 0x0F => .fc0FWriteMultipleCoils payload
  | 0x10 => .fc10WriteMultipleHoldingRegisters payload
  | _ => if exceptionByte function then .fcException function payload else .fcOther function payload

/-- A PDU is its function byte followed by its payload (R73). -/
def decodePdu : Bytes → Except DecodeError Instr
  | [] => .error .emptyPdu
  | function :: payload => .ok (functionForm function payload)

/-! ### Step kinds (R86) -/

/-- The row of R86 a selector falls under. RA_SHUTDOWN comes before every phase rule (R183, R225); within READY the
error flag, then the DECODE_RTU result, then the broadcast test (R225). -/
def kindOf (k : StepKey) : Option StepKind :=
  match k.event, k.phase with
  | .shutdown, _ => some .shutdown
  | .data, .idle => some .idleDrain
  | .empty, .idle => some .idleAdvance
  | .data, .accumulating =>
    match k.framing with
    | .silence => some .silAppend
    | .fixedPrefix => some .fixAppend
  | .empty, .accumulating =>
    match k.framing, k.packetEmpty with
    | .silence, true => some .silWait
    | .silence, false => some .silBoundary
    | .fixedPrefix, true => some .fixWait
    | .fixedPrefix, false => some .fixAbort
  | .none, .ready =>
    if k.error then some .readyError
    else
      match k.verdict, k.broadcast with
      | .frameError, _ => some .readyInvalid
      | .addressed, _ => some .readyEmit
      | .broadcast, .emit => some .readyEmit
      | .broadcast, .drop => some .readyBcastDrop
  | .none, .idle => none
  | .none, .accumulating => none
  | .data, .ready => none
  | .empty, .ready => none

/-- The instruction of a step kind on port `p`. -/
def StepKind.instr (k : StepKind) (p : Nat) : Instr :=
  match k with
  | .shutdown => .raShutdown p
  | .idleDrain => .raIdleDrain p
  | .idleAdvance => .raIdleAdvance p
  | .silAppend => .raSilAppend p
  | .silWait => .raSilWait p
  | .silBoundary => .raSilBoundary p
  | .fixAppend => .raFixAppend p
  | .fixWait => .raFixWait p
  | .fixAbort => .raFixAbort p
  | .readyError => .raReadyError p
  | .readyInvalid => .raReadyInvalid p
  | .readyEmit => .raReadyEmit p
  | .readyBcastDrop => .raReadyBcastDrop p

/-- A step of port `p` with this selector. -/
def decodeStep (key : StepKey) (p : Nat) : Except DecodeError Instr :=
  match kindOf key with
  | some k => .ok (k.instr p)
  | none => .error .noSuchStep

/-- The decoder, over the table's three formats. -/
def decode : Code → Except DecodeError Instr
  | .command bs => decodeCommand bs
  | .pdu bs => decodePdu bs
  | .select key p => decodeStep key p

/-! ### The encoder -/

/-- A `Bytes` operand as `readBytes` takes it. -/
def putBytes : Bytes → Bytes
  | [] => [0]
  | b :: bs => 1 :: b :: putBytes bs

/-- A Frame operand as `readFrame` takes it. -/
def putFrame : Frame → Bytes
  | .rtu f => 0 :: f.address :: f.function :: putBytes f.payload
  | .tcp f => 1 :: (Machine.be16 f.transactionId ++ Machine.be16 f.protocolId ++
      (f.unitId :: f.function :: putBytes f.payload))

/-- A selector that falls under the row of R86 with these columns; a column the row leaves open (`any`) has its
first value. -/
def selector (phase : Phase) (event : Event) (framing : Framing) (packetEmpty error : Bool) (verdict : Verdict)
    (broadcast : BroadcastPolicy) : StepKey :=
  { phase, event, framing, broadcast, packetEmpty, error, verdict }

/-- One selector for each row of R86. -/
def keyOf : StepKind → StepKey
  | .shutdown => selector .idle .shutdown .fixedPrefix true false .frameError .emit
  | .idleDrain => selector .idle .data .fixedPrefix true false .frameError .emit
  | .idleAdvance => selector .idle .empty .fixedPrefix true false .frameError .emit
  | .silAppend => selector .accumulating .data .silence true false .frameError .emit
  | .silWait => selector .accumulating .empty .silence true false .frameError .emit
  | .silBoundary => selector .accumulating .empty .silence false false .frameError .emit
  | .fixAppend => selector .accumulating .data .fixedPrefix true false .frameError .emit
  | .fixWait => selector .accumulating .empty .fixedPrefix true false .frameError .emit
  | .fixAbort => selector .accumulating .empty .fixedPrefix false false .frameError .emit
  | .readyError => selector .ready .none .fixedPrefix false true .frameError .emit
  | .readyInvalid => selector .ready .none .fixedPrefix false false .frameError .emit
  | .readyEmit => selector .ready .none .fixedPrefix false false .addressed .emit
  | .readyBcastDrop => selector .ready .none .fixedPrefix false false .broadcast .drop

/-- The words of an instruction. -/
def encode : Instr → Code
  | .crc16 b => .command (0x01 :: putBytes b)
  | .validate f => .command (0x02 :: putBytes f)
  | .decodeRtu b => .command (0x10 :: putBytes b)
  | .decodeTcp b => .command (0x11 :: putBytes b)
  | .getAddress f => .command (0x20 :: putFrame f)
  | .getFunction f => .command (0x21 :: putFrame f)
  | .getPayload f => .command (0x22 :: putFrame f)
  | .setPayload f pl => .command (0x28 :: (putFrame f ++ putBytes pl))
  | .setException f e => .command (0x29 :: (putFrame f ++ [e]))
  | .copyAsResponse f => .command (0x2A :: putFrame f)
  | .toBytes f => .command (0x30 :: putFrame f)
  | .raShutdown p => .select (keyOf .shutdown) p
  | .raIdleDrain p => .select (keyOf .idleDrain) p
  | .raIdleAdvance p => .select (keyOf .idleAdvance) p
  | .raSilAppend p => .select (keyOf .silAppend) p
  | .raSilWait p => .select (keyOf .silWait) p
  | .raSilBoundary p => .select (keyOf .silBoundary) p
  | .raFixAppend p => .select (keyOf .fixAppend) p
  | .raFixWait p => .select (keyOf .fixWait) p
  | .raFixAbort p => .select (keyOf .fixAbort) p
  | .raReadyError p => .select (keyOf .readyError) p
  | .raReadyInvalid p => .select (keyOf .readyInvalid) p
  | .raReadyEmit p => .select (keyOf .readyEmit) p
  | .raReadyBcastDrop p => .select (keyOf .readyBcastDrop) p
  | .fc01ReadCoils pl => .pdu (0x01 :: pl)
  | .fc02ReadDiscreteInputs pl => .pdu (0x02 :: pl)
  | .fc03ReadHoldingRegisters pl => .pdu (0x03 :: pl)
  | .fc04ReadInputRegisters pl => .pdu (0x04 :: pl)
  | .fc05WriteSingleCoil pl => .pdu (0x05 :: pl)
  | .fc06WriteHoldingRegister pl => .pdu (0x06 :: pl)
  | .fc0FWriteMultipleCoils pl => .pdu (0x0F :: pl)
  | .fc10WriteMultipleHoldingRegisters pl => .pdu (0x10 :: pl)
  | .fcException f pl => .pdu (f :: pl)
  | .fcOther f pl => .pdu (f :: pl)

/-! ### The table's words (log entry 3) -/

/-- The bytes of a table word, byte 0 in bits 7..0. -/
def wordBytes (nbits w : Nat) : Bytes :=
  (List.range ((nbits + 7) / 8)).map fun k => BitVec.ofNat 8 (w / 2 ^ (8 * k))

/-- Whether R85 assigns this command code. -/
def assigned (code : Byte) : Bool :=
  match readOperands code [] with
  | .error (.unassigned _) => false
  | _ => true

/-- More zero bytes than any command's operands take when all their bits are 0. -/
def operandZeros : Bytes := List.replicate 16 0

/-- A command whose bits above the given ones are 0, cut where its last operand ends. -/
def zeroPaddedCommand (bs : Bytes) : Bytes :=
  let all := bs ++ operandZeros
  match readCommand all with
  | .ok (_, rest) => all.take (all.length - rest.length)
  | .error _ => all

/-- The length of a request PDU of this function code with no data bytes (R75), or of an exception PDU (R77). -/
def pduLength (function : Byte) : Nat :=
  if exceptionByte function then 2
  else if function = 0x0F ∨ function = 0x10 then 6
  else 5

/-- A PDU whose bits above the given ones are 0, at the length of its form. -/
def zeroPaddedPdu : Bytes → Bytes
  | [] => []
  | f :: pl => f :: (pl ++ List.replicate (pduLength f - (pl.length + 1)) 0)

/-- How a table word reaches the block. The table numbers CMD and PDU-FC rows in the same byte, and the word does not
say which it is: one byte with an assigned command code is that command, any other word is a PDU. -/
def tableCode (nbits w : Nat) : Code :=
  match wordBytes nbits w with
  | [code] => if assigned code then .command (zeroPaddedCommand [code]) else .pdu (zeroPaddedPdu [code])
  | bs => .pdu (zeroPaddedPdu bs)

/-- The instruction the decoder reads from a table word. -/
def decodeTableWord (nbits w : Nat) : Option Instr :=
  match decode (tableCode nbits w) with
  | .ok i => some i
  | .error _ => none

end Sys2Proof
end

