-- ==== Sys2Proof/Machine/State.lean ====
section
/-! DEFINITION. The state (spec/10_state.md R20 to R35), the faults and refusals, and the machine after reset (R35,
R250). The block addresses no memory (spec/20_memory.md R50). What the block keeps is `cfg` and, for each port, `run`
and `ls`; the other fields are the environment's side of the interfaces R30, R31 and R32, held as plain data. -/

namespace Sys2Proof.Machine

/-- `run[p]` (R32). -/
inductive RunState where
  | running
  | stopped
deriving DecidableEq, Repr

/-- `ls[p]` (R26). -/
structure ListenState where
  phase : Phase
  /-- the accumulated partial frame, byte 0 the first of the frame attempt (R51) -/
  packet : Bytes
  /-- the number of bytes still expected; 0 under SILENCE -/
  expected : Nat
  /-- the frame attempt's error flag (R29) -/
  error : Bool
deriving DecidableEq, Repr

/-- The ListenState after reset (R35), which is also what `toIdle()` leaves (R181). -/
def ListenState.reset : ListenState := { phase := .idle, packet := [], expected := 0, error := false }

/-- ENVIRONMENT. A port's byte source (R30): what its coming reads will meet, first item first, and how many items
were drawn from `Config.arrival` because the list had run out. -/
structure Stream where
  tape : List Arrival
  draws : Nat
deriving DecidableEq, Repr

/-- A source of which nothing is known. -/
def Stream.fresh : Stream := { tape := [], draws := 0 }

/-- One serial port: its run state and ListenState, which are the block's, and its byte source, which is not. -/
structure Port where
  run : RunState
  ls : ListenState
  stream : Stream
deriving DecidableEq, Repr

/-- A Request (R31): the originating port's handle and the decoded frame. -/
structure Request where
  port : Nat
  frame : RtuFrame
deriving DecidableEq, Repr

/-- ENVIRONMENT. The request sink (R31): its coming answers to an Emit, how many were drawn from
`Config.sinkAccepts` because the list had run out, and the Requests it accepted since reset, oldest first. -/
structure Sink where
  answers : List Bool
  draws : Nat
  accepted : List Request
deriving DecidableEq, Repr

/-- ENVIRONMENT. One turn of the schedule: which agent acts, or what an input does (R9, R10). -/
inductive Turn where
  /-- the reassembler of port `p` takes a step (R180) -/
  | port (p : Nat)
  /-- an agent invokes a CRC or codec operation (R85) -/
  | command (bytes : Bytes)
  /-- an agent asks what a PDU's function-code form is (R74; log entry 7) -/
  | pdu (bytes : Bytes)
  /-- SHUTDOWN is asserted (R32) -/
  | shutdown
  /-- the block is reset, with these strap values (R250) -/
  | reset (straps : Cfg)
deriving DecidableEq, Repr

/-- The machine. -/
structure State where
  /-- CFG (R21). -/
  cfg : Cfg
  /-- `run[p]`, `ls[p]` and the byte source of port p, listed by p (R20, R26, R32, R30). -/
  ports : List Port
  /-- ENVIRONMENT. The byte sources of ports the present straps do not have, from port `cfg.numPorts` on: those an
  earlier CFG had and a reset took away. DESIGN CHOICE (the spec is silent), unsafe: log entry 34. -/
  parked : List Stream
  /-- the SHUTDOWN input (R32). -/
  shutdown : Bool
  /-- the request sink (R31). -/
  sink : Sink
  /-- what the last CRC, codec or function-code operation answered to its caller (R15, R20); MODEL's own. -/
  result : Option CmdResult
  /-- the coming turns, first one first; MODEL's own (R9). -/
  schedule : List Turn
  /-- how many turns were drawn from `Config.scheduled` because the list had run out; MODEL's own. -/
  draws : Nat
deriving DecidableEq, Repr

/-- No step of the block faults: "no behaviour of the block wedges or faults" (spec/93_implementation_defined.md,
R194). There is nothing to name, so the type has no constructor. -/
inductive Fault where
deriving DecidableEq, Repr

/-- Why the model gives a step no meaning. -/
inductive Refusal where
  /-- Raised by an arm of `exec` for an instruction that has no meaning yet. Safe. No arm raises it. -/
  | notModelled (mnemonic : String)
  /-- Raised by `step` for a code with no instruction: an unassigned command code or an operand outside its type
  (R85, R222). Safe: the spec says a model must refuse it. -/
  | badCode (reason : DecodeError)
  /-- Raised by SET_EXCEPTION with code 0 (R164: `refuse(SUCCESS_IS_NOT_AN_EXCEPTION)`). Safe: the spec's refusal. -/
  | successIsNotAnException
  /-- Raised by TO_BYTES of a TcpFrame with more than 65533 payload bytes (R142: `refuse(TCP_PAYLOAD_TOO_LONG)`).
  Safe: the spec's refusal. -/
  | tcpPayloadTooLong
  /-- Raised by `step` when CFG, or the straps of a reset, hold an illegal value (R251: "an illegal CFG value gives
  the block no meaning, and a model must refuse it"). Safe: the spec's refusal. -/
  | illegalConfig
  /-- Raised by a step of a port `p` with no reassembler (R231: there are `CFG.num_ports` of them). Safe: no such step
  exists. -/
  | noSuchPort
  /-- Raised by the meaning of a step kind in a state that does not select that kind (R86), a STOPPED port among them
  (R32). Safe: no such step exists. `step` never runs a kind that is not selected. -/
  | stepNotSelected
deriving DecidableEq, Repr

/-- Port `p` after reset (R35), with a byte source that lists nothing. -/
def Port.reset : Port := { run := .running, ls := ListenState.reset, stream := Stream.fresh }

/-- The machine right after reset with the strap values `c` (R35, R250): every port RUNNING in IDLE with an empty
packet, SHUTDOWN deasserted, no Request pending, no Frame value, and an environment of which nothing is listed. -/
def State.resetWith (c : Cfg) : State where
  cfg := c
  ports := List.replicate c.numPorts Port.reset
  parked := []
  shutdown := false
  sink := { answers := [], draws := 0, accepted := [] }
  result := none
  schedule := []
  draws := 0

/-- The machine right after reset (R35), with the strap values of log entry 1. -/
def State.reset : State := State.resetWith Config.straps

/-- Every byte source the state knows, by port number: those of its ports, then the parked ones. -/
def State.streams (s : State) : List Stream := s.ports.map Port.stream ++ s.parked

/-! ### Named updates -/

/-- `s` with port `p` replaced. -/
def State.setPort (s : State) (p : Nat) (q : Port) : State := { s with ports := s.ports.set p q }

/-- `s` with a new sink. -/
def State.setSink (s : State) (k : Sink) : State := { s with sink := k }

/-- `s` with an operation's answer. -/
def State.setResult (s : State) (r : CmdResult) : State := { s with result := some r }

/-- `s` with a new schedule. -/
def State.setSchedule (s : State) (l : List Turn) : State := { s with schedule := l }

end Sys2Proof.Machine
end

