-- ==== Sys2Proof/Machine/Flags.lean ====
section
/-! DEFINITION. The block's two flags: the exception bit of a Frame's function byte (R25) and the error flag of a
frame attempt (R29). -/

namespace Sys2Proof.Machine

/-- The function byte with the exception bit set, `function | 0x80` (R25, R77, R164). -/
def setExceptionBit (function : Byte) : Byte := function ||| 0x80

/-- `ls.error <- true` (R29). -/
def raiseError (ls : ListenState) : ListenState := { ls with error := true }

end Sys2Proof.Machine
end

