-- ==== Sys2Proof/Machine/Codec.lean ====
section
/-! DEFINITION. The frame codec as total functions on values (spec/42_frame_rtu.md, spec/43_frame_tcp.md,
spec/44_frame_ops.md). -/

namespace Sys2Proof.Machine

/-! ### RTU (R120 to R125) -/

/-- DECODE_RTU's function (R121): the length check first, then the CRC. -/
def decodeRtu (b : Bytes) : Except FrameError RtuFrame :=
  if b.length < 4 then .error .tooShort
  else if validate b then
    .ok { address := byteAt b 0
          function := byteAt b 1
          payload := (b.drop 2).take (b.length - 4)
          crc := u16le b (b.length - 2) }
  else .error .badCrc

/-- TO_BYTES of an RtuFrame (R122): the CRC is computed from the current fields, and goes out low byte first (R104). -/
def rtuBytes (f : RtuFrame) : Bytes :=
  f.address :: f.function :: f.payload ++ le16 (bodyCrc f.address f.function f.payload)

/-! ### TCP (R140 to R145) -/

/-- DECODE_TCP's function (R141): fewer than 8 bytes first (D7), then the declared length. protocolId, unitId, the
function code and the payload's shape are not checked (R144, R145). -/
def decodeTcp (b : Bytes) : Except FrameError TcpFrame :=
  if b.length < 8 then .error .tooShort
  else if (u16be b 4).toNat = b.length - 6 then
    .ok { transactionId := u16be b 0
          protocolId := u16be b 2
          unitId := byteAt b 6
          function := byteAt b 7
          payload := b.drop 8 }
  else .error .lengthMismatch

/-- The MBAP length `L = 2 + len(payload)` (R142). -/
def mbapLength (f : TcpFrame) : Nat := 2 + f.payload.length

/-- TO_BYTES of a TcpFrame whose length field fits 16 bits (R142). -/
def tcpBytes (f : TcpFrame) : Bytes :=
  be16 f.transactionId ++ be16 f.protocolId ++ be16 (BitVec.ofNat 16 (mbapLength f)) ++
    (f.unitId :: f.function :: f.payload)

/-! ### Operations over both variants (R160 to R166) -/

/-- GET_ADDRESS (R160): the unit id stands for the address of a TCP frame (D37). -/
def frameAddress : Frame → Byte
  | .rtu f => f.address
  | .tcp f => f.unitId

/-- GET_FUNCTION (R161). -/
def frameFunction : Frame → Byte
  | .rtu f => f.function
  | .tcp f => f.function

/-- GET_PAYLOAD (R162). -/
def framePayload : Frame → Bytes
  | .rtu f => f.payload
  | .tcp f => f.payload

/-- An RtuFrame with its `crc` recomputed from the other fields (D10). -/
def sealRtu (f : RtuFrame) : RtuFrame := { f with crc := bodyCrc f.address f.function f.payload }

/-- SET_PAYLOAD (R163). -/
def setPayload (f : Frame) (payload : Bytes) : Frame :=
  match f with
  | .rtu g => .rtu (sealRtu { g with payload := payload })
  | .tcp g => .tcp { g with payload := payload }

/-- SET_EXCEPTION with a code other than 0 (R164). -/
def setException (f : Frame) (e : Byte) : Frame :=
  match f with
  | .rtu g => .rtu (sealRtu { g with function := setExceptionBit g.function, payload := [e] })
  | .tcp g => .tcp { g with function := setExceptionBit g.function, payload := [e] }

/-- COPY_AS_RESPONSE (R165): a new value equal to `f` in every field (D11). -/
def copyAsResponse (f : Frame) : Frame := f

/-- TO_BYTES (R166): none where R142 refuses. -/
def toBytes : Frame → Option Bytes
  | .rtu f => some (rtuBytes f)
  | .tcp f => if mbapLength f > 0xFFFF then none else some (tcpBytes f)

end Sys2Proof.Machine
end

