-- ==== Sys2Proof/Machine/Operands.lean ====
section
/-! DEFINITION. The payload layouts of the function codes (spec/30_encoding.md R74 to R80), the exception codes (R78)
and the frame length FIXED_PREFIX gives a function code (spec/45_reassembler.md R187). The codec applies none of the
layouts (R73). -/

namespace Sys2Proof.Machine

/-- The exceptions of R78, in its order; `success` is no exception. -/
inductive ModbusException where
  | success
  | illegalFunction
  | illegalDataAddress
  | illegalDataValue
  | slaveDeviceFailure
  | acknowledge
  | slaveDeviceBusy
  | negativeAcknowledge
  | memoryParityError
  | gatewayPathUnavailable
  | gatewayTargetDeviceFailedToRespond
deriving DecidableEq, Repr

/-- The code bytes of R78. -/
def exceptionCode : ModbusException → Byte
  | .success => 0x00
  | .illegalFunction => 0x01
  | .illegalDataAddress => 0x02
  | .illegalDataValue => 0x03
  | .slaveDeviceFailure => 0x04
  | .acknowledge => 0x05
  | .slaveDeviceBusy => 0x06
  | .negativeAcknowledge => 0x07
  | .memoryParityError => 0x08
  | .gatewayPathUnavailable => 0x0A
  | .gatewayTargetDeviceFailedToRespond => 0x0B

/-- How the surrounding software builds a response from a request and a handler's result `(payload, ex)` (R167): an
interface contract, and no operation of the block. The exception's byte is that of R78 (log entry 15); the byte 0 of
Success is never given to SET_EXCEPTION, which refuses it (R164). -/
def buildResponse (f : Frame) (payload : Bytes) (ex : ModbusException) : Frame :=
  if ex = .success then setPayload (copyAsResponse f) payload
  else setException (copyAsResponse f) (exceptionCode ex)

/-- Function codes 15 and 16, whose requests carry a byteCount (R75, R187). -/
def hasByteCount (function : Byte) : Bool := function == 0x0F || function == 0x10

/-- Whether a payload of code 15 or 16 reaches its byteCount and has that many data bytes after it (R75, R80). -/
def hasDataBytes (payload : Bytes) : Bool :=
  decide (5 ≤ payload.length ∧ payload.length = 5 + (byteAt payload 4).toNat)

/-- Whether a response payload has byteCount data bytes after its byteCount (R76, R80). -/
def hasCountedBytes (payload : Bytes) : Bool :=
  decide (1 ≤ payload.length ∧ payload.length = 1 + (byteAt payload 0).toNat)

/-- The `count` coils that data hold in the packing of R76; none where the data are not `count` coils packed that way
(their number is not ceil(count / 8), or a padding bit is 1). The codec applies neither rule (R76; log entry 15). -/
def coilsOf (count : Nat) (data : Bytes) : Option (List Bool) :=
  let coils := (unpackBits data).take count
  if coils.length = count ∧ packBits coils = data then some coils else none

/-- The request fields of a payload that has the layout R75 gives the function code; payload byte k is frame byte
2 + k. -/
def requestFields (function : Byte) (payload : Bytes) : Option RequestFields :=
  match function.toNat with
  | 0x01 | 0x02 | 0x03 | 0x04 =>
    if payload.length = 4 then some (.read (u16be payload 0) (u16be payload 2)) else none
  | 0x05 | 0x06 =>
    if payload.length = 4 then some (.write (u16be payload 0) (u16be payload 2)) else none
  | 0x0F =>
    if hasDataBytes payload then
      some (.writeCoils (u16be payload 0) (u16be payload 2) (byteAt payload 4) (payload.drop 5)
        (coilsOf (u16be payload 2).toNat (payload.drop 5)))
    else none
  | 0x10 =>
    if hasDataBytes payload then
      some (.writeRegisters (u16be payload 0) (u16be payload 2) (byteAt payload 4) (payload.drop 5)
        (beWords (payload.drop 5)))
    else none
  | _ => none

/-- The response fields of a payload that has the layout R76 gives the function code. Codes 3 and 4 carry whole words
(`N = 2 × count`), so an odd byteCount has none. -/
def responseFields (function : Byte) (payload : Bytes) : Option ResponseFields :=
  match function.toNat with
  | 0x01 | 0x02 =>
    if hasCountedBytes payload then
      some (.coils (byteAt payload 0) (payload.drop 1) (unpackBits (payload.drop 1)))
    else none
  | 0x03 | 0x04 =>
    if hasCountedBytes payload then
      match beWords (payload.drop 1) with
      | some words => some (.registers (byteAt payload 0) words)
      | none => none
    else none
  | 0x05 | 0x06 =>
    if payload.length = 4 then some (.echoWrite (u16be payload 0) (u16be payload 2)) else none
  | 0x0F | 0x10 =>
    if payload.length = 4 then some (.echoRange (u16be payload 0) (u16be payload 2)) else none
  | _ => none

/-- The response payload R74 and R76 fix from a request of that layout alone: codes 5 and 6 echo the request payload,
codes 15 and 16 its first 4 bytes. -/
def echoPayload (function : Byte) (payload : Bytes) : Option Bytes :=
  match requestFields function payload with
  | some (.write _ _) => some payload
  | some (.writeCoils _ _ _ _ _) => some (payload.take 4)
  | some (.writeRegisters _ _ _ _ _) => some (payload.take 4)
  | _ => none

/-- The byteCount of a response to a request for `count` values (R76): `2 × count` for codes 3 and 4;
`ceil(count / 8)` for codes 1 and 2, which the spec marks as general knowledge. No operation of the block applies it. -/
def responseByteCount (function : Byte) (count : Nat) : Option Nat :=
  match function.toNat with
  | 0x01 | 0x02 => some ((count + 7) / 8)
  | 0x03 | 0x04 => some (2 * count)
  | _ => none

/-- `frameLen(packet)` (R187), for a packet that holds the first 8 bytes of a frame attempt. -/
def frameLen (packet : Bytes) : Nat :=
  if hasByteCount (byteAt packet 1) then 9 + (byteAt packet 6).toNat else 8

/-- The same length told from a PDU alone: packet byte 6 is payload byte 4 (R75). None where the payload does not
reach its byteCount byte. -/
def pduFrameLen (function : Byte) (payload : Bytes) : Option Nat :=
  if hasByteCount function then
    if 5 ≤ payload.length then some (9 + (byteAt payload 4).toNat) else none
  else some 8

/-- What the spec says of a PDU (R74 to R79, R187). -/
def pduView (function : Byte) (payload : Bytes) : PduView where
  function := function
  exceptionBit := exceptionByte function
  request := requestFields function payload
  response := responseFields function payload
  echo := echoPayload function payload
  exceptionCode := if exceptionByte function ∧ payload.length = 1 then some (byteAt payload 0) else none
  frameLen := pduFrameLen function payload

end Sys2Proof.Machine
end

