-- ==== Sys2Proof/Machine/Ops.lean ====
section
/-! DEFINITION. The named operations: the port read (R30, R56, R182, R185), the Emit handshake (R31), the helpers that
write the ListenState (R181, R188, R189), the selection of a step (R180, R86), a step's common frame, error entry
(R226), reset (R250) and the schedule (R9). -/

namespace Sys2Proof.Machine

/-- What a meaning answers. -/
abbrev Answer := Host.Outcome State Fault Refusal

/-! ### The port byte source (R30) -/

/-- The mode of a PortRead (R14, R30). No rule depends on it (D28). -/
inductive ReadMode where
  | nonblock
  | timed
deriving DecidableEq, Repr

/-- What a PortRead returns (R30). -/
inductive ReadResult where
  | data (bs : Bytes)
  | empty
  | error
deriving DecidableEq, Repr

/-- The next arrival of port `p`'s source; a free draw where none is listed. -/
def nextArrival (p : Nat) (st : Stream) : Arrival × Stream :=
  match st.tape with
  | a :: rest => (a, { st with tape := rest })
  | [] => (Config.arrival p st.draws, { st with draws := st.draws + 1 })

/-- `PortRead_p(mode, max)` (R30): destructive; `Data(bs)` has `1 ≤ len(bs) ≤ max`, and what a longer arrival holds
beyond `max` stays in the stream. No rule reads with `max = 0` in a state the machine reaches; such a read answers
`Empty` and consumes nothing (log entry 9). -/
def portRead (p : Nat) (_mode : ReadMode) (max : Nat) (st : Stream) : ReadResult × Stream :=
  if max = 0 then (.empty, st)
  else
    match nextArrival p st with
    | (.silence, st') => (.empty, st')
    | (.error, st') => (.error, st')
    | (.bytes bs, st') =>
      if bs = [] then (.empty, st')
      else if bs.length ≤ max then (.data bs, st')
      else (.data (bs.take max), { st' with tape := .bytes (bs.drop max) :: st'.tape })

/-- R182: `Error` becomes `Empty`, and the others pass unchanged. -/
def normalise : ReadResult → ReadResult
  | .data bs => .data bs
  | .empty => .empty
  | .error => .empty

/-- The bytes a read returned; none for `Empty` and `Error`. -/
def ReadResult.bytes : ReadResult → Bytes
  | .data bs => bs
  | .empty => []
  | .error => []

/-- The PortRead a step makes (R180, R184, R185): non-blocking in IDLE, timed in ACCUMULATING with at most
`ls.expected` bytes under FIXED_PREFIX, none in READY. -/
def readRequest (c : Cfg) (ls : ListenState) : Option (ReadMode × Nat) :=
  match ls.phase with
  | .idle => some (.nonblock, c.readChunk)
  | .accumulating =>
    match c.framing with
    | .silence => some (.timed, c.readChunk)
    | .fixedPrefix => some (.timed, min c.readChunk ls.expected)
  | .ready => none

/-- The normalised result of the read that a step of port `p` makes, with the stream it leaves; none in READY. -/
def portStepRead (c : Cfg) (p : Nat) (q : Port) : Option (ReadResult × Stream) :=
  match readRequest c q.ls with
  | none => none
  | some (mode, max) =>
    match portRead p mode max q.stream with
    | (r, st) => some (normalise r, st)

/-! ### The request sink (R31) -/

/-- The sink's answer to the Emit of this step; a free draw where none is listed. -/
def sinkAnswer (k : Sink) : Bool × Sink :=
  match k.answers with
  | a :: rest => (a, { k with answers := rest })
  | [] => (Config.sinkAccepts k.draws, { k with draws := k.draws + 1 })

/-- `Emit(req)` (R31): whether the sink accepted, and the sink after it. A Request is accepted at most once. -/
def emit (r : Request) (k : Sink) : Bool × Sink :=
  match sinkAnswer k with
  | (true, k') => (true, { k' with accepted := k'.accepted ++ [r] })
  | (false, k') => (false, k')

/-! ### Writing the ListenState -/

/-- `toIdle()` (R181). -/
def toIdle (_ls : ListenState) : ListenState := { phase := .idle, packet := [], expected := 0, error := false }

/-- The length of the prefix FIXED_PREFIX reads first (R181, R187). -/
def prefixLen : Nat := 8

/-- `newAttempt()` (R181). -/
def newAttempt (c : Cfg) (_ls : ListenState) : ListenState where
  phase := .accumulating
  packet := []
  expected := match c.framing with
    | .fixedPrefix => prefixLen
    | .silence => 0
  error := false

/-- `ls.phase <- READY`. -/
def toReady (ls : ListenState) : ListenState := { ls with phase := .ready }

/-- `appendBounded(bs)` (R189). -/
def appendBounded (c : Cfg) (bs : Bytes) (ls : ListenState) : ListenState :=
  let room := c.maxFrame - ls.packet.length
  if room < bs.length then raiseError { ls with packet := ls.packet ++ bs.take room }
  else { ls with packet := ls.packet ++ bs }

/-- The decision of R188 when the 8-byte prefix is complete. -/
def sizePrefix (c : Cfg) (ls : ListenState) : ListenState :=
  let len := frameLen ls.packet
  if c.maxFrame < len then toReady (raiseError ls)
  else if len = prefixLen then toReady ls
  else { ls with expected := len - prefixLen }

/-- The append of R188. -/
def appendFixed (c : Cfg) (bs : Bytes) (ls : ListenState) : ListenState :=
  let ls' := { ls with packet := ls.packet ++ bs, expected := ls.expected - bs.length }
  if ls'.expected = 0 then
    if ls'.packet.length = prefixLen then sizePrefix c ls' else toReady ls'
  else ls'

/-! ### Selecting a step (R180, R86) -/

/-- What DECODE_RTU says of a packet (R190 to R193). -/
def verdictOf (packet : Bytes) : Verdict :=
  match decodeRtu packet with
  | .error _ => .frameError
  | .ok f => if f.address = 0#8 then .broadcast else .addressed

/-- The event of a step (R86): SHUTDOWN before anything (R225), no event in READY, else what the read returned. -/
def stepEvent (s : State) (p : Nat) (q : Port) : Event :=
  if s.shutdown then .shutdown
  else
    match portStepRead s.cfg p q with
    | none => .none
    | some (.data _, _) => .data
    | some (_, _) => .empty

/-- The selector of the step that port `p`, in state `q`, takes. -/
def stepKey (s : State) (p : Nat) (q : Port) : StepKey where
  phase := q.ls.phase
  event := stepEvent s p q
  framing := s.cfg.framing
  broadcast := s.cfg.broadcast
  packetEmpty := q.ls.packet.isEmpty
  error := q.ls.error
  verdict := verdictOf q.ls.packet

/-- What the step kinds share: the port exists, it is RUNNING (R32), and its state selects this kind (R86). -/
def portStep (k : StepKind) (p : Nat) (s : State) (body : Port → Answer) : Answer :=
  match s.ports[p]? with
  | none => .refused .noSuchPort
  | some q =>
    if q.run = .running ∧ kindOf (stepKey s p q) = some k then body q else .refused .stepNotSelected

/-- A step that makes its read and updates the ListenState from the bytes read (R184, R186, R188). -/
def readingStep (k : StepKind) (p : Nat) (s : State) (update : Bytes → ListenState → ListenState) : Answer :=
  portStep k p s fun q =>
    match portStepRead s.cfg p q with
    | none => .refused .stepNotSelected
    | some (r, st) => .next (s.setPort p { q with ls := update r.bytes q.ls, stream := st })

/-- ERROR ENTRY in the reassembler (R226, R190, R192): the frame attempt is discarded through `toIdle()`; nothing is
saved and nothing is output. There is no handler, and so nothing to return from (R227). A dropped broadcast frame
ends the same way (R193). -/
def discardAttempt (k : StepKind) (p : Nat) (s : State) : Answer :=
  portStep k p s fun q => .next (s.setPort p { q with ls := toIdle q.ls })

/-! ### The answer of a CRC, codec or function-code operation (R15) -/

/-- The operation ends in this value; it has no other effect (R56, R100). -/
def answer (r : CmdResult) (s : State) : Answer := .next (s.setResult r)

/-- ERROR ENTRY of a decoder (R226): the operation has no effect but its FrameError outcome. -/
def raiseFrameError (reason : FrameError) (s : State) : Answer := answer (.frameError reason) s

/-! ### Reset (R250) -/

/-- Port `p` of a reset machine: RUNNING in IDLE. The bytes waiting on a port stay with the environment (R250), and so
do those of a port that an earlier reset took away: DESIGN CHOICE (the spec is silent), log entry 34. Only a port the
machine never had starts with `Stream.fresh`. -/
def resetPort (s : State) (p : Nat) : Port := { Port.reset with stream := s.streams.getD p Stream.fresh }

/-- Reset with the strap values `c` (R250, R251): CFG is loaded, every port is RUNNING in IDLE, SHUTDOWN is
deasserted, every Frame value and Request is discarded. The environment's coming inputs stay (log entry 17); the byte
sources of ports beyond the new number are parked (log entry 34). -/
def applyReset (c : Cfg) (s : State) : State where
  cfg := c
  ports := (List.range c.numPorts).map (resetPort s)
  parked := s.streams.drop c.numPorts
  shutdown := false
  sink := { s.sink with accepted := [] }
  result := none
  schedule := s.schedule
  draws := s.draws

/-! ### The schedule (R9, R180) -/

/-- What a turn asks of the step. -/
inductive Fetched where
  /-- the turn changed an input, or its agent has no step to take -/
  | done (s : State)
  /-- the turn has no meaning -/
  | refuse (r : Refusal)
  /-- an instruction to decode and run -/
  | run (c : Code) (s : State)
deriving DecidableEq, Repr

/-- Reassembler `p` is scheduled. A STOPPED one has no step (R32, R180). -/
def fetchPort (p : Nat) (s : State) : Fetched :=
  match s.ports[p]? with
  | none => .refuse .noSuchPort
  | some q =>
    match q.run with
    | .stopped => .done s
    | .running => .run (.select (stepKey s p q) p) s

/-- One listed turn. -/
def fetchTurn (t : Turn) (s : State) : Fetched :=
  match t with
  | .port p => fetchPort p s
  | .command bs => .run (.command bs) s
  | .pdu bs => .run (.pdu bs) s
  | .shutdown => .done { s with shutdown := true }
  | .reset c => if c.Legal then .done (applyReset c s) else .refuse .illegalConfig

/-- A turn drawn from the environment: SHUTDOWN, or a port that exists. -/
def drawTurn (s : State) : Fetched :=
  let s' := { s with draws := s.draws + 1 }
  match Config.scheduled s.draws with
  | none => .done { s' with shutdown := true }
  | some k => if s.ports.length = 0 then .done s' else fetchPort (k % s.ports.length) s'

/-- The next turn: the first of the schedule, else a free draw. -/
def fetch (s : State) : Fetched :=
  match s.schedule with
  | t :: rest => fetchTurn t (s.setSchedule rest)
  | [] => drawTurn s

end Sys2Proof.Machine
end

