-- ==== Sys2Proof/Machine/CrcUnit.lean ====
section
/-! DEFINITION. The meanings of the CRC unit's operations (spec/41_crc.md R100, R103, R105). -/

namespace Sys2Proof.Machine

/-- CRC16 (R103): the value is the CRC; no flag is written and nothing is raised. -/
def execCrc16 (b : Bytes) (s : State) : Answer := answer (.word (crc16 b)) s

/-- VALIDATE (R105). -/
def execValidate (f : Bytes) (s : State) : Answer := answer (.bool (validate f)) s

end Sys2Proof.Machine
end

