-- ==== Sys2Proof/Machine/FrameDecode.lean ====
section
/-! DEFINITION. The meanings of the two decoders (spec/42_frame_rtu.md R121, spec/43_frame_tcp.md R141). -/

namespace Sys2Proof.Machine

/-- DECODE_RTU (R121): an RtuFrame, or FrameError(TOO_SHORT) or FrameError(BAD_CRC). -/
def execDecodeRtu (b : Bytes) (s : State) : Answer :=
  match decodeRtu b with
  | .ok f => answer (.frame (.rtu f)) s
  | .error reason => raiseFrameError reason s

/-- DECODE_TCP (R141): a TcpFrame, or FrameError(TOO_SHORT) or FrameError(LENGTH_MISMATCH). -/
def execDecodeTcp (b : Bytes) (s : State) : Answer :=
  match decodeTcp b with
  | .ok f => answer (.frame (.tcp f)) s
  | .error reason => raiseFrameError reason s

end Sys2Proof.Machine
end

