-- ==== Sys2Proof/Machine/FrameOps.lean ====
section
/-! DEFINITION. The meanings of the frame operations (spec/44_frame_ops.md R160 to R166). -/

namespace Sys2Proof.Machine

/-- GET_ADDRESS (R160). -/
def execGetAddress (f : Frame) (s : State) : Answer := answer (.byte (frameAddress f)) s

/-- GET_FUNCTION (R161), with its exception bit. -/
def execGetFunction (f : Frame) (s : State) : Answer := answer (.byte (frameFunction f)) s

/-- GET_PAYLOAD (R162). -/
def execGetPayload (f : Frame) (s : State) : Answer := answer (.bytes (framePayload f)) s

/-- SET_PAYLOAD (R163). -/
def execSetPayload (f : Frame) (payload : Bytes) (s : State) : Answer :=
  answer (.frame (setPayload f payload)) s

/-- SET_EXCEPTION (R164): refused when e = 0 (D12). -/
def execSetException (f : Frame) (e : Byte) (s : State) : Answer :=
  if e = 0#8 then .refused .successIsNotAnException else answer (.frame (setException f e)) s

/-- COPY_AS_RESPONSE (R165). -/
def execCopyAsResponse (f : Frame) (s : State) : Answer := answer (.frame (copyAsResponse f)) s

/-- TO_BYTES (R166, R122, R142): refused for a TcpFrame with more than 65533 payload bytes (D9). -/
def execToBytes (f : Frame) (s : State) : Answer :=
  match toBytes f with
  | some bs => answer (.bytes bs) s
  | none => .refused .tcpPayloadTooLong

end Sys2Proof.Machine
end

