-- ==== Sys2Proof/Machine/FunctionCodes.lean ====
section
/-! DEFINITION. The meanings of the function-code forms (spec/30_encoding.md R74 to R79, spec/45_reassembler.md R187).
A function code is a form of the data the block carries, not an operation (R10, R73): asking for its form answers what
the spec says of it, and changes nothing else (log entry 7). -/

namespace Sys2Proof.Machine

/-- The answer for a PDU. -/
def answerForm (function : Byte) (payload : Bytes) (s : State) : Answer :=
  answer (.pdu (pduView function payload)) s

/-- Function code 0x01 (R74): start, count; 8 bytes under FIXED_PREFIX. -/
def execFc01ReadCoils (payload : Bytes) (s : State) : Answer := answerForm 0x01 payload s

/-- Function code 0x02 (R74): start, count; 8 bytes under FIXED_PREFIX. -/
def execFc02ReadDiscreteInputs (payload : Bytes) (s : State) : Answer := answerForm 0x02 payload s

/-- Function code 0x03 (R74): start, count; 8 bytes under FIXED_PREFIX. -/
def execFc03ReadHoldingRegisters (payload : Bytes) (s : State) : Answer := answerForm 0x03 payload s

/-- Function code 0x04 (R74): start, count; 8 bytes under FIXED_PREFIX. -/
def execFc04ReadInputRegisters (payload : Bytes) (s : State) : Answer := answerForm 0x04 payload s

/-- Function code 0x05 (R74): addr, value (0x0000 or 0xFF00, which the block does not check, R124); 8 bytes under FIXED_PREFIX. -/
def execFc05WriteSingleCoil (payload : Bytes) (s : State) : Answer := answerForm 0x05 payload s

/-- Function code 0x06 (R74): addr, value; 8 bytes under FIXED_PREFIX. -/
def execFc06WriteHoldingRegister (payload : Bytes) (s : State) : Answer := answerForm 0x06 payload s

/-- Function code 0x0F (R74): start, count, byteCount, bits; 9 + byteCount bytes under FIXED_PREFIX. -/
def execFc0FWriteMultipleCoils (payload : Bytes) (s : State) : Answer := answerForm 0x0F payload s

/-- Function code 0x10 (R74): start, count, byteCount, words; 9 + byteCount bytes under FIXED_PREFIX. -/
def execFc10WriteMultipleHoldingRegisters (payload : Bytes) (s : State) : Answer := answerForm 0x10 payload s

/-- The exception form (R77): the request's function code with bit 7 set, then one exception-code byte. -/
def execFcException (function : Byte) (payload : Bytes) (s : State) : Answer := answerForm function payload s

/-- Any other function byte (R79): carried unchanged; 8 bytes under FIXED_PREFIX (D20). -/
def execFcOther (function : Byte) (payload : Bytes) (s : State) : Answer := answerForm function payload s

end Sys2Proof.Machine
end

