-- ==== Sys2Proof/Machine/Reassembler.lean ====
section
/-! DEFINITION. The meanings of the reassembler's step kinds (spec/45_reassembler.md R183 to R193). Each is a step of
port `p`; where the state does not select the kind there is no such step. -/

namespace Sys2Proof.Machine

/-- RA_SHUTDOWN (R183): `run <- STOPPED`; `ls` is left as it is, no read is made, nothing is emitted. -/
def execRaShutdown (p : Nat) (s : State) : Answer :=
  portStep .shutdown p s fun q => .next (s.setPort p { q with run := .stopped })

/-- RA_IDLE_DRAIN (R184): the bytes read are discarded (D18). -/
def execRaIdleDrain (p : Nat) (s : State) : Answer :=
  readingStep .idleDrain p s fun _ ls => ls

/-- RA_IDLE_ADVANCE (R184): a new frame attempt. -/
def execRaIdleAdvance (p : Nat) (s : State) : Answer :=
  readingStep .idleAdvance p s fun _ ls => newAttempt s.cfg ls

/-- RA_SIL_APPEND (R186, R189). -/
def execRaSilAppend (p : Nat) (s : State) : Answer :=
  readingStep .silAppend p s fun bs ls => appendBounded s.cfg bs ls

/-- RA_SIL_WAIT (R186): no change but the read. -/
def execRaSilWait (p : Nat) (s : State) : Answer :=
  readingStep .silWait p s fun _ ls => ls

/-- RA_SIL_BOUNDARY (R186). -/
def execRaSilBoundary (p : Nat) (s : State) : Answer :=
  readingStep .silBoundary p s fun _ ls => toReady ls

/-- RA_FIX_APPEND (R188). -/
def execRaFixAppend (p : Nat) (s : State) : Answer :=
  readingStep .fixAppend p s fun bs ls => appendFixed s.cfg bs ls

/-- RA_FIX_WAIT (R188): no change but the read. -/
def execRaFixWait (p : Nat) (s : State) : Answer :=
  readingStep .fixWait p s fun _ ls => ls

/-- RA_FIX_ABORT (R188, D21). -/
def execRaFixAbort (p : Nat) (s : State) : Answer :=
  readingStep .fixAbort p s fun _ ls => toReady (raiseError ls)

/-- RA_READY_ERROR (R190): the packet is discarded without decoding. -/
def execRaReadyError (p : Nat) (s : State) : Answer := discardAttempt .readyError p s

/-- RA_READY_INVALID (R192): the packet is discarded silently. -/
def execRaReadyInvalid (p : Nat) (s : State) : Answer := discardAttempt .readyInvalid p s

/-- RA_READY_EMIT (R191): the Request goes to the sink and the attempt ends in the same step; while the sink does not
accept, the step holds with `run` and `ls` unchanged (R31). -/
def execRaReadyEmit (p : Nat) (s : State) : Answer :=
  portStep .readyEmit p s fun q =>
    match s.cfg.portIds[p]?, decodeRtu q.ls.packet with
    | none, _ => .refused .noSuchPort
    | some _, .error _ => .refused .stepNotSelected
    | some handle, .ok f =>
      match emit { port := handle, frame := f } s.sink with
      | (true, k) => .next ((s.setSink k).setPort p { q with ls := toIdle q.ls })
      | (false, k) => .next (s.setSink k)

/-- RA_READY_BCAST_DROP (R193): a valid broadcast frame is dropped. -/
def execRaReadyBcastDrop (p : Nat) (s : State) : Answer := discardAttempt .readyBcastDrop p s

end Sys2Proof.Machine
end

