-- ==== Sys2Proof/Machine/Dispatch.lean ====
section
/-! DEFINITION. The dispatch: one arm per constructor of `Instr`, each one direct call of its meaning. -/

namespace Sys2Proof.Machine

def exec (i : Instr) (s : State) : Host.Outcome State Fault Refusal :=
  match i with
  | .crc16 b => Sys2Proof.Machine.execCrc16 b s
  | .validate f => Sys2Proof.Machine.execValidate f s
  | .decodeRtu b => Sys2Proof.Machine.execDecodeRtu b s
  | .decodeTcp b => Sys2Proof.Machine.execDecodeTcp b s
  | .getAddress f => Sys2Proof.Machine.execGetAddress f s
  | .getFunction f => Sys2Proof.Machine.execGetFunction f s
  | .getPayload f => Sys2Proof.Machine.execGetPayload f s
  | .setPayload f pl => Sys2Proof.Machine.execSetPayload f pl s
  | .setException f e => Sys2Proof.Machine.execSetException f e s
  | .copyAsResponse f => Sys2Proof.Machine.execCopyAsResponse f s
  | .toBytes f => Sys2Proof.Machine.execToBytes f s
  | .raShutdown p => Sys2Proof.Machine.execRaShutdown p s
  | .raIdleDrain p => Sys2Proof.Machine.execRaIdleDrain p s
  | .raIdleAdvance p => Sys2Proof.Machine.execRaIdleAdvance p s
  | .raSilAppend p => Sys2Proof.Machine.execRaSilAppend p s
  | .raSilWait p => Sys2Proof.Machine.execRaSilWait p s
  | .raSilBoundary p => Sys2Proof.Machine.execRaSilBoundary p s
  | .raFixAppend p => Sys2Proof.Machine.execRaFixAppend p s
  | .raFixWait p => Sys2Proof.Machine.execRaFixWait p s
  | .raFixAbort p => Sys2Proof.Machine.execRaFixAbort p s
  | .raReadyError p => Sys2Proof.Machine.execRaReadyError p s
  | .raReadyInvalid p => Sys2Proof.Machine.execRaReadyInvalid p s
  | .raReadyEmit p => Sys2Proof.Machine.execRaReadyEmit p s
  | .raReadyBcastDrop p => Sys2Proof.Machine.execRaReadyBcastDrop p s
  | .fc01ReadCoils pl => Sys2Proof.Machine.execFc01ReadCoils pl s
  | .fc02ReadDiscreteInputs pl => Sys2Proof.Machine.execFc02ReadDiscreteInputs pl s
  | .fc03ReadHoldingRegisters pl => Sys2Proof.Machine.execFc03ReadHoldingRegisters pl s
  | .fc04ReadInputRegisters pl => Sys2Proof.Machine.execFc04ReadInputRegisters pl s
  | .fc05WriteSingleCoil pl => Sys2Proof.Machine.execFc05WriteSingleCoil pl s
  | .fc06WriteHoldingRegister pl => Sys2Proof.Machine.execFc06WriteHoldingRegister pl s
  | .fc0FWriteMultipleCoils pl => Sys2Proof.Machine.execFc0FWriteMultipleCoils pl s
  | .fc10WriteMultipleHoldingRegisters pl => Sys2Proof.Machine.execFc10WriteMultipleHoldingRegisters pl s
  | .fcException f pl => Sys2Proof.Machine.execFcException f pl s
  | .fcOther f pl => Sys2Proof.Machine.execFcOther f pl s

end Sys2Proof.Machine
end

