-- ==== Sys2Proof/Machine/Step.lean ====
section
/-! DEFINITION. The step: one turn of the schedule (spec/00_scope.md R9, spec/45_reassembler.md R180). -/

namespace Sys2Proof.Machine

/-- Decode and run what a turn asks for. -/
def runFetched : Fetched → Host.Outcome State Fault Refusal
  | .done s => .next s
  | .refuse r => .refused r
  | .run c s =>
    match decode c with
    | .ok i => exec i s
    | .error e => .refused (.badCode e)

/-- One step of the block: an illegal CFG has no meaning (R251); else the next turn is taken. -/
def step (s : State) : Host.Outcome State Fault Refusal :=
  if s.cfg.Legal then runFetched (fetch s) else .refused .illegalConfig

/-- The turn by which a code reaches the block. -/
def turnOf : Code → Turn
  | .command bs => .command bs
  | .pdu bs => .pdu bs
  | .select _ p => .port p

/-- `s` with a table word's instruction as the next turn of the schedule. The block fetches no instructions (R64): its
operations are invoked, so placing one is putting its invocation first (log entry 8). -/
def State.withFetchWord (s : State) (nbits w : Nat) : State :=
  s.setSchedule (turnOf (tableCode nbits w) :: s.schedule)

end Sys2Proof.Machine
end

