-- ==== Sys2Proof/Safety.lean ====
section
/-! DEFINITION. The terms in which claims are stated: the invariant of a port, of an emitted Request and of the machine
(spec/10_state.md R26, R51; spec/45_reassembler.md R181, R185, R188, R189, R195), a single-bit error (spec/41_crc.md
R107), and the premises of a step. -/

namespace Sys2Proof

/-- An arrival that a read meets as empty (R182). -/
def Arrival.isGap : Arrival → Bool
  | .bytes bs => bs.isEmpty
  | .silence => true
  | .error => true

/-- The bytes of an arrival. -/
def Arrival.content : Arrival → Bytes
  | .bytes bs => bs
  | .silence => []
  | .error => []

end Sys2Proof

namespace Sys2Proof.Machine

/-- What every reachable ListenState keeps (R26, R51, R181, R185 to R189).
Under FIXED_PREFIX an accumulating attempt still expects the rest of its prefix, or the rest of the length the prefix
gave; a READY attempt without the error flag has exactly that length. -/
abbrev PortInv (c : Cfg) (q : Port) : Prop :=
  q.ls.packet.length ≤ c.maxFrame ∧
  (c.framing = .silence → q.ls.expected = 0) ∧
  (q.ls.phase = .idle → q.ls = ListenState.reset) ∧
  (q.ls.phase = .ready → q.ls.packet ≠ []) ∧
  (q.ls.packet = [] → q.ls.error = false) ∧
  (c.framing = .fixedPrefix → q.ls.phase = .accumulating →
    q.ls.error = false ∧ 1 ≤ q.ls.expected ∧
    ((q.ls.packet.length < 8 ∧ q.ls.packet.length + q.ls.expected = 8) ∨
     (8 ≤ q.ls.packet.length ∧ q.ls.packet.length + q.ls.expected = frameLen q.ls.packet ∧
        frameLen q.ls.packet ≤ c.maxFrame))) ∧
  (c.framing = .fixedPrefix → q.ls.phase = .ready → q.ls.error = false →
    q.ls.packet.length = frameLen q.ls.packet)

/-- What every emitted Request keeps (R195, R23, R31). -/
abbrev RequestInv (c : Cfg) (r : Request) : Prop :=
  r.port ∈ c.portIds ∧
  r.frame.wellFormed = true ∧
  4 ≤ (rtuBytes r.frame).length ∧ (rtuBytes r.frame).length ≤ c.maxFrame ∧
  validate (rtuBytes r.frame) = true ∧
  (c.framing = .fixedPrefix → (rtuBytes r.frame).length = frameLen (rtuBytes r.frame)) ∧
  (c.broadcast = .drop → r.frame.address ≠ 0#8)

/-- The machine's invariant: a legal CFG, one port record per port, and the invariants above. -/
abbrev State.Inv (s : State) : Prop :=
  s.cfg.Legal ∧ s.ports.length = s.cfg.numPorts ∧ (∀ q ∈ s.ports, PortInv s.cfg q) ∧
    ∀ r ∈ s.sink.accepted, RequestInv s.cfg r

/-- `F` with bit `i % 8` of byte `i / 8` inverted (R107). -/
def flipBit (f : Bytes) (i : Nat) : Bytes := f.modify (i / 8) fun b => b ^^^ (1#8 <<< (i % 8))

/-- Port `p` is `q`, it is RUNNING in this phase, and SHUTDOWN is not asserted: the premises of a phase rule (R180). -/
abbrev RunningIn (s : State) (p : Nat) (q : Port) (phase : Phase) : Prop :=
  s.ports[p]? = some q ∧ q.run = .running ∧ s.shutdown = false ∧ q.ls.phase = phase

/-- Two frames of one variant with the same address, or unit id, transactionId and protocolId (R165, R167). -/
abbrev SameAddressing (f g : Frame) : Prop :=
  match f, g with
  | .rtu a, .rtu b => b.address = a.address
  | .tcp a, .tcp b => b.unitId = a.unitId ∧ b.transactionId = a.transactionId ∧ b.protocolId = a.protocolId
  | .rtu _, .tcp _ => False
  | .tcp _, .rtu _ => False

/-- The bytes a stream lists, in arrival order (R30, R59). -/
def Stream.content (st : Stream) : Bytes := st.tape.flatMap Arrival.content

/-- Of the byte string `total` that has reached a port so far, its stream still lists the end, and the packet of an
attempt without the error flag stands right before that end: a contiguous segment of the stream, in order (R59). -/
abbrev SegmentInv (total : Bytes) (q : Port) : Prop :=
  (∃ before, total = before ++ q.stream.content) ∧
  (q.ls.error = false → ∃ before, total = before ++ q.ls.packet ++ q.stream.content)

end Sys2Proof.Machine
end

