-- ==== Sys2Proof/Certificates/Slice0/Obligations.lean ====
section
/-! DEFINITION. The statements for the provers, one `def Obligations.<Name> : Prop` each; OBLIGATIONS.json lists them
with the rules of spec/ they rest on. -/

open Sys2Proof Sys2Proof.Machine

/-- O1. The bit-serial CRC unit with the constant 0xA001 and CRC_STEP agree on every register value and every byte
(41_crc.md R102, R101). -/
def Obligations.CrcStepIsBitSerial : Prop :=
  ∀ (c : U16) (b : Byte),
    (List.range 8).foldl (fun (r : U16) i => if r.getLsbD 0 != b.getLsbD i then (r >>> 1) ^^^ 0xA001#16 else r >>> 1) c =
      crcStep c b ∧
    crcSerialStep c b = crcStep c b

/-- O2. CRC16 starts at 0xFFFF, continues incrementally over appended bytes, and changes only its result (R103, R101).
-/
def Obligations.Crc16FoldsTheStep : Prop :=
  (∀ s : State, exec (.crc16 []) s = .next { s with result := some (.word 0xFFFF#16) }) ∧
  (∀ (a b : Bytes) (s : State),
    exec (.crc16 (a ++ b)) s = .next { s with result := some (.word (b.foldl crcStep (crc16 a))) }) ∧
  ∀ (a : Bytes) (b : Byte) (s : State),
    exec (.crc16 (a ++ [b])) s = .next { s with result := some (.word (crcStep (crc16 a) b)) }

/-- O3. VALIDATE compares the CRC of all but the last two bytes with those two, low byte first (R105). -/
def Obligations.ValidateComparesTheTrailingPair : Prop :=
  (∀ (f : Bytes) (s : State), f.length < 2 →
    exec (.validate f) s = .next { s with result := some (.bool false) }) ∧
  ∀ (body : Bytes) (lo hi : Byte) (s : State),
    exec (.validate (body ++ [lo, hi])) s =
      .next { s with result := some (.bool (decide ((crc16 body).toNat = lo.toNat + 256 * hi.toNat))) }

/-- O4. A string followed by its own CRC has CRC 0, and VALIDATE is the same as a zero CRC (R106). The spec marks R106
as its own inference. -/
def Obligations.CrcResidueIsZero : Prop :=
  (∀ b : Bytes, crc16 (b ++ le16 (crc16 b)) = 0#16) ∧
  ∀ f : Bytes, 2 ≤ f.length → (validate f = true ↔ crc16 f = 0#16)

/-- O5. Inverting any one bit of a string that validates makes it fail to validate (R107). The spec marks R107 as its
own inference. -/
def Obligations.SingleBitErrorIsDetected : Prop :=
  ∀ (f : Bytes) (i : Nat), validate f = true → i < 8 * f.length → validate (flipBit f i) = false

/-- O6. DECODE_RTU: TOO_SHORT below 4 bytes, BAD_CRC when the CRC fails, else the frame field for field (R121, R105).
The spec marks the last equality, crc = CRC16 of the other fields, as its own inference from R105. -/
def Obligations.DecodeRtuOutcomes : Prop :=
  (∀ (b : Bytes) (s : State), b.length < 4 →
    exec (.decodeRtu b) s = .next { s with result := some (.frameError .tooShort) }) ∧
  (∀ (b : Bytes) (s : State), 4 ≤ b.length → validate b = false →
    exec (.decodeRtu b) s = .next { s with result := some (.frameError .badCrc) }) ∧
  ∀ (a fn lo hi : Byte) (pl : Bytes) (s : State), validate (a :: fn :: pl ++ [lo, hi]) = true →
    exec (.decodeRtu (a :: fn :: pl ++ [lo, hi])) s =
      .next { s with result := some (.frame (.rtu
        { address := a, function := fn, payload := pl,
          crc := BitVec.ofNat 16 (lo.toNat + 256 * hi.toNat) })) } ∧
    BitVec.ofNat 16 (lo.toNat + 256 * hi.toNat) = crc16 (a :: fn :: pl)

/-- O7. TO_BYTES of an RTU frame: address, function, payload, then the CRC of these, low byte first (R122). -/
def Obligations.ToBytesRtuAppendsTheCrc : Prop :=
  ∀ (f : RtuFrame) (s : State),
    exec (.toBytes (.rtu f)) s = .next { s with result := some (.bytes
      ([f.address, f.function] ++ f.payload ++
        [(crc16 ([f.address, f.function] ++ f.payload)).setWidth 8,
         (crc16 ([f.address, f.function] ++ f.payload) >>> 8).setWidth 8])) }

/-- O8. DECODE_RTU and TO_BYTES are inverse on valid byte strings and on RTU frames (R123). The spec marks R123 as its
own inference. -/
def Obligations.RtuRoundTrip : Prop :=
  (∀ (b : Bytes) (f : RtuFrame) (s s' : State), exec (.decodeRtu b) s = .next s' →
    s'.result = some (.frame (.rtu f)) →
    exec (.toBytes (.rtu f)) s' = .next { s' with result := some (.bytes b) }) ∧
  ∀ (f : RtuFrame) (s : State), f.wellFormed = true →
    ∃ b, exec (.toBytes (.rtu f)) s = .next { s with result := some (.bytes b) } ∧
      exec (.decodeRtu b) s = .next { s with result := some (.frame (.rtu f)) }

/-- O9. Any string of at least 2 bytes with its CRC decodes; every single-bit-flipped variant is BAD_CRC (R125). The
spec marks R125 as its own inference. -/
def Obligations.CrcRoundTripProperty : Prop :=
  ∀ (a fn : Byte) (pl : Bytes) (s : State),
    exec (.decodeRtu (a :: fn :: pl ++ le16 (crc16 (a :: fn :: pl)))) s =
      .next { s with result := some (.frame (.rtu
        { address := a, function := fn, payload := pl, crc := crc16 (a :: fn :: pl) })) } ∧
    ∀ i, i < 8 * (a :: fn :: pl ++ le16 (crc16 (a :: fn :: pl))).length →
      exec (.decodeRtu (flipBit (a :: fn :: pl ++ le16 (crc16 (a :: fn :: pl))) i)) s =
        .next { s with result := some (.frameError .badCrc) }

/-- O10. DECODE_TCP: TOO_SHORT below 8 bytes, LENGTH_MISMATCH unless the declared length is n - 6, else the frame
(R141). -/
def Obligations.DecodeTcpOutcomes : Prop :=
  (∀ (b : Bytes) (s : State), b.length < 8 →
    exec (.decodeTcp b) s = .next { s with result := some (.frameError .tooShort) }) ∧
  ∀ (t1 t0 p1 p0 l1 l0 u fn : Byte) (pl : Bytes) (s : State),
    exec (.decodeTcp (t1 :: t0 :: p1 :: p0 :: l1 :: l0 :: u :: fn :: pl)) s =
      .next { s with result := some (
        if 256 * l1.toNat + l0.toNat = 2 + pl.length then
          .frame (.tcp { transactionId := BitVec.ofNat 16 (256 * t1.toNat + t0.toNat)
                         protocolId := BitVec.ofNat 16 (256 * p1.toNat + p0.toNat)
                         unitId := u
                         function := fn
                         payload := pl })
        else .frameError .lengthMismatch) }

/-- O11. TO_BYTES of a TCP frame writes the MBAP header with the recomputed length, and refuses a payload over 65533
bytes (R142). -/
def Obligations.ToBytesTcpRecomputesTheLength : Prop :=
  ∀ (f : TcpFrame) (s : State),
    (f.payload.length ≤ 65533 → exec (.toBytes (.tcp f)) s = .next { s with result := some (.bytes
      ([(f.transactionId >>> 8).setWidth 8, f.transactionId.setWidth 8,
        (f.protocolId >>> 8).setWidth 8, f.protocolId.setWidth 8,
        BitVec.ofNat 8 ((2 + f.payload.length) / 256), BitVec.ofNat 8 (2 + f.payload.length),
        f.unitId, f.function] ++ f.payload)) }) ∧
    (65533 < f.payload.length → exec (.toBytes (.tcp f)) s = .refused .tcpPayloadTooLong)

/-- O12. DECODE_TCP and TO_BYTES are inverse on matching byte strings and on TCP frames of encodable length (R143).
The spec marks R143 as its own inference. -/
def Obligations.TcpRoundTrip : Prop :=
  (∀ (b : Bytes) (f : TcpFrame) (s s' : State), exec (.decodeTcp b) s = .next s' →
    s'.result = some (.frame (.tcp f)) →
    exec (.toBytes (.tcp f)) s' = .next { s' with result := some (.bytes b) }) ∧
  ∀ (f : TcpFrame) (s : State), f.payload.length ≤ 65533 →
    ∃ b, exec (.toBytes (.tcp f)) s = .next { s with result := some (.bytes b) } ∧
      exec (.decodeTcp b) s = .next { s with result := some (.frame (.tcp f)) }

/-- O13. GET_ADDRESS, GET_FUNCTION and GET_PAYLOAD answer the fields of either variant (R160, R161, R162). -/
def Obligations.AccessorsAnswerTheFields : Prop :=
  ∀ (f : RtuFrame) (g : TcpFrame) (s : State),
    exec (.getAddress (.rtu f)) s = .next { s with result := some (.byte f.address) } ∧
    exec (.getAddress (.tcp g)) s = .next { s with result := some (.byte g.unitId) } ∧
    exec (.getFunction (.rtu f)) s = .next { s with result := some (.byte f.function) } ∧
    exec (.getFunction (.tcp g)) s = .next { s with result := some (.byte g.function) } ∧
    exec (.getPayload (.rtu f)) s = .next { s with result := some (.bytes f.payload) } ∧
    exec (.getPayload (.tcp g)) s = .next { s with result := some (.bytes g.payload) }

/-- O14. SET_PAYLOAD replaces the payload, recomputes an RTU frame's crc and keeps every other field (R163, R23). The
spec marks the last clause, SET_PAYLOAD(f, f.payload) = f, as its own inference from R23. -/
def Obligations.SetPayloadReplacesOnlyThePayload : Prop :=
  (∀ (f : RtuFrame) (pl : Bytes) (s : State), exec (.setPayload (.rtu f) pl) s =
    .next { s with result := some (.frame (.rtu
      { address := f.address, function := f.function, payload := pl,
        crc := crc16 ([f.address, f.function] ++ pl) })) }) ∧
  (∀ (g : TcpFrame) (pl : Bytes) (s : State), exec (.setPayload (.tcp g) pl) s =
    .next { s with result := some (.frame (.tcp
      { transactionId := g.transactionId, protocolId := g.protocolId, unitId := g.unitId,
        function := g.function, payload := pl })) }) ∧
  ∀ (f : Frame) (s : State), f.wellFormed = true →
    exec (.setPayload f (framePayload f)) s = .next { s with result := some (.frame f) }

/-- O15. SET_EXCEPTION sets bit 7 of the function, makes the code the payload, and refuses code 0 (R164). -/
def Obligations.SetExceptionSetsTheBitAndCode : Prop :=
  (∀ (f : RtuFrame) (e : Byte) (s : State), e ≠ 0#8 → exec (.setException (.rtu f) e) s =
    .next { s with result := some (.frame (.rtu
      { address := f.address, function := f.function ||| 0x80#8, payload := [e],
        crc := crc16 [f.address, f.function ||| 0x80#8, e] })) }) ∧
  (∀ (g : TcpFrame) (e : Byte) (s : State), e ≠ 0#8 → exec (.setException (.tcp g) e) s =
    .next { s with result := some (.frame (.tcp
      { transactionId := g.transactionId, protocolId := g.protocolId, unitId := g.unitId,
        function := g.function ||| 0x80#8, payload := [e] })) }) ∧
  ∀ (f : Frame) (s : State), exec (.setException f 0#8) s = .refused .successIsNotAnException

/-- O16. COPY_AS_RESPONSE answers a frame equal to its operand in every field (R165). -/
def Obligations.CopyAsResponseIsIdentical : Prop :=
  (∀ (f : RtuFrame) (s : State), exec (.copyAsResponse (.rtu f)) s =
    .next { s with result := some (.frame (.rtu
      { address := f.address, function := f.function, payload := f.payload, crc := f.crc })) }) ∧
  ∀ (g : TcpFrame) (s : State), exec (.copyAsResponse (.tcp g)) s =
    .next { s with result := some (.frame (.tcp
      { transactionId := g.transactionId, protocolId := g.protocolId, unitId := g.unitId,
        function := g.function, payload := g.payload })) }

/-- O17. An exception response is function OR 0x80 and one code byte: 5 bytes in RTU, 9 in TCP with length 3 (R77). -/
def Obligations.ExceptionResponseWireForm : Prop :=
  (∀ (f : RtuFrame) (e : Byte) (s : State), e ≠ 0#8 →
    ∃ g, exec (.setException (.rtu f) e) s = .next { s with result := some (.frame g) } ∧
      exec (.toBytes g) s = .next { s with result := some (.bytes
        ([f.address, f.function ||| 0x80#8, e] ++ le16 (crc16 [f.address, f.function ||| 0x80#8, e]))) }) ∧
  ∀ (f : TcpFrame) (e : Byte) (s : State), e ≠ 0#8 →
    ∃ g, exec (.setException (.tcp f) e) s = .next { s with result := some (.frame g) } ∧
      exec (.toBytes g) s = .next { s with result := some (.bytes
        (be16 f.transactionId ++ be16 f.protocolId ++
          [0#8, 3#8, f.unitId, f.function ||| 0x80#8, e])) }

/-- O18. Every frame an instruction answers keeps crc = crc16([address, function] ++ payload) (R23, R121, R163, R164).
-/
def Obligations.AnsweredFramesKeepTheCrcInvariant : Prop :=
  ∀ (i : Instr) (s s' : State) (f : Frame), i.wellFormed = true →
    (∀ g, s.result = some (.frame g) → g.wellFormed = true) →
    exec i s = .next s' → s'.result = some (.frame f) → f.wellFormed = true

/-- O19. CRC, codec and function-code operations change only the result, which depends on the operands alone (R56,
R61, R100). R56, R61 and R100 speak of CRC and codec operations; that the table's function-code rows are run as
operations is the model's choice (log entry 7). -/
def Obligations.CodecOperationsArePure : Prop :=
  ∀ (i : Instr) (s s' : State), (∀ key p, encode i ≠ .select key p) → exec i s = .next s' →
    ∃ r, ∀ t : State, exec i t = .next { t with result := some r }

/-- O20. A response built by COPY_AS_RESPONSE and SET_PAYLOAD or SET_EXCEPTION keeps the request's address and
transaction (R167, R163, R164, R165). The code numbers of the exceptions are those of R78, which the spec marks as
general knowledge (log entry 15). -/
def Obligations.ResponseKeepsTheRequestsAddressing : Prop :=
  ∀ (f : Frame) (s : State), ∃ c, exec (.copyAsResponse f) s = .next { s with result := some (.frame c) } ∧
    (∀ pl : Bytes, ∃ r, exec (.setPayload c pl) s = .next { s with result := some (.frame r) } ∧
      SameAddressing f r ∧ frameFunction r = frameFunction f ∧ framePayload r = pl ∧
      buildResponse f pl .success = r) ∧
    ∀ e : Byte, e ≠ 0#8 → ∃ r, exec (.setException c e) s = .next { s with result := some (.frame r) } ∧
      SameAddressing f r ∧ frameFunction r = frameFunction f ||| 0x80#8 ∧ framePayload r = [e] ∧
      ∀ (ex : ModbusException) (pl : Bytes), exceptionCode ex = e → buildResponse f pl ex = r

/-- O21. Codes 1 to 4: start and count at payload bytes 0 and 2, high byte first, 8 bytes under FIXED_PREFIX (R74,
R75, R187). That the table's function-code rows are run as operations is the model's choice (log entry 7). -/
def Obligations.ReadRequestForms : Prop :=
  ∀ x ∈ ([(Instr.fc01ReadCoils, 0x01#8), (Instr.fc02ReadDiscreteInputs, 0x02#8),
      (Instr.fc03ReadHoldingRegisters, 0x03#8), (Instr.fc04ReadInputRegisters, 0x04#8)] :
      List ((Bytes → Instr) × Byte)),
  ∀ (start count : U16) (s : State), ∃ v : PduView,
    exec (x.1 [(start >>> 8).setWidth 8, start.setWidth 8, (count >>> 8).setWidth 8, count.setWidth 8]) s =
      .next { s with result := some (.pdu v) } ∧
    v.function = x.2 ∧ v.exceptionBit = false ∧ v.request = some (.read start count) ∧ v.frameLen = some 8

/-- O22. Codes 5 and 6: addr and value, echoed whole in the response, 8 bytes under FIXED_PREFIX (R74, R75, R76,
R187). That the table's function-code rows are run as operations is the model's choice (log entry 7). -/
def Obligations.WriteSingleForms : Prop :=
  ∀ x ∈ ([(Instr.fc05WriteSingleCoil, 0x05#8), (Instr.fc06WriteHoldingRegister, 0x06#8)] :
      List ((Bytes → Instr) × Byte)),
  ∀ (addr value : U16) (s : State), ∃ v : PduView,
    exec (x.1 [(addr >>> 8).setWidth 8, addr.setWidth 8, (value >>> 8).setWidth 8, value.setWidth 8]) s =
      .next { s with result := some (.pdu v) } ∧
    v.function = x.2 ∧ v.exceptionBit = false ∧ v.request = some (.write addr value) ∧
    v.response = some (.echoWrite addr value) ∧
    v.echo = some [(addr >>> 8).setWidth 8, addr.setWidth 8, (value >>> 8).setWidth 8, value.setWidth 8] ∧
    v.frameLen = some 8

/-- O23. Codes 15 and 16: start, count, byteCount and data, read as packed coils or as words high byte first; 9 +
byteCount bytes (R53, R74, R75, R76, R187). The coil packing is what R76 marks as general knowledge (log entry 15).
That the table's function-code rows are run as operations is the model's choice (log entry 7). -/
def Obligations.WriteMultipleForms : Prop :=
  ∀ (start count : U16) (data : Bytes) (s : State), data.length < 256 →
    (∃ (v : PduView) (coils : Option (List Bool)),
      exec (.fc0FWriteMultipleCoils ([(start >>> 8).setWidth 8, start.setWidth 8, (count >>> 8).setWidth 8,
        count.setWidth 8, BitVec.ofNat 8 data.length] ++ data)) s = .next { s with result := some (.pdu v) } ∧
      v.function = 0x0F#8 ∧ v.exceptionBit = false ∧
      v.request = some (.writeCoils start count (BitVec.ofNat 8 data.length) data coils) ∧
      (∀ bits, coils = some bits ↔ bits.length = count.toNat ∧ data.length = (count.toNat + 7) / 8 ∧
        ∀ i, i < 8 * data.length → (data.getD (i / 8) 0#8).getLsbD (i % 8) = bits.getD i false) ∧
      v.echo = some [(start >>> 8).setWidth 8, start.setWidth 8, (count >>> 8).setWidth 8, count.setWidth 8] ∧
      v.frameLen = some (9 + data.length)) ∧
    ∃ (v : PduView) (words : Option (List U16)),
      exec (.fc10WriteMultipleHoldingRegisters ([(start >>> 8).setWidth 8, start.setWidth 8,
        (count >>> 8).setWidth 8, count.setWidth 8, BitVec.ofNat 8 data.length] ++ data)) s =
          .next { s with result := some (.pdu v) } ∧
      v.function = 0x10#8 ∧ v.exceptionBit = false ∧
      v.request = some (.writeRegisters start count (BitVec.ofNat 8 data.length) data words) ∧
      (∀ ws : List U16, words = some ws ↔ data = ws.flatMap fun (w : U16) => [(w >>> 8).setWidth 8, w.setWidth 8]) ∧
      v.echo = some [(start >>> 8).setWidth 8, start.setWidth 8, (count >>> 8).setWidth 8, count.setWidth 8] ∧
      v.frameLen = some (9 + data.length)

/-- O24. Every function byte with every payload is carried; an exception form answers its code byte, and a byte
without a row of its own no field layout (R77, R79, R187). That these rows are run as operations is the model's choice
(log entry 7). -/
def Obligations.OtherFunctionBytesAreCarried : Prop :=
  (∀ (fn : Byte) (pl : Bytes) (s : State), ∃ v : PduView,
    exec (functionForm fn pl) s = .next { s with result := some (.pdu v) } ∧
    v.function = fn ∧ v.exceptionBit = fn.getLsbD 7) ∧
  (∀ (fn code : Byte) (s : State), fn.getLsbD 7 = true → ∃ v : PduView,
    exec (.fcException fn [code]) s = .next { s with result := some (.pdu v) } ∧
    v.function = fn ∧ v.exceptionBit = true ∧ v.exceptionCode = some code ∧ v.frameLen = some 8) ∧
  ∀ (fn : Byte) (pl : Bytes) (s : State), fn.getLsbD 7 = false →
    fn ∉ [0x01#8, 0x02#8, 0x03#8, 0x04#8, 0x05#8, 0x06#8, 0x0F#8, 0x10#8] → ∃ v : PduView,
    exec (.fcOther fn pl) s = .next { s with result := some (.pdu v) } ∧
    v.function = fn ∧ v.exceptionBit = false ∧ v.request = none ∧ v.response = none ∧ v.frameLen = some 8

/-- O25. Codes 1, 2 answer byteCount and packed bits; 3, 4 byteCount and words, high byte first; 15, 16 start and
count (R53, R76). The coil packing is what R76 marks as general knowledge (log entry 15). That these rows are run as
operations is the model's choice (log entry 7). -/
def Obligations.ResponseForms : Prop :=
  (∀ x ∈ ([Instr.fc01ReadCoils, Instr.fc02ReadDiscreteInputs] : List (Bytes → Instr)),
    ∀ (data : Bytes) (s : State), data.length < 256 → ∃ (v : PduView) (coils : List Bool),
      exec (x (BitVec.ofNat 8 data.length :: data)) s = .next { s with result := some (.pdu v) } ∧
      v.response = some (.coils (BitVec.ofNat 8 data.length) data coils) ∧ coils.length = 8 * data.length ∧
      ∀ i, i < 8 * data.length → coils[i]? = some ((data.getD (i / 8) 0#8).getLsbD (i % 8))) ∧
  (∀ x ∈ ([Instr.fc03ReadHoldingRegisters, Instr.fc04ReadInputRegisters] : List (Bytes → Instr)), ∀ s : State,
    (∀ ws : List U16, ws.length < 128 → ∃ v : PduView,
      exec (x (BitVec.ofNat 8 (2 * ws.length) :: ws.flatMap fun (w : U16) => [(w >>> 8).setWidth 8, w.setWidth 8])) s =
        .next { s with result := some (.pdu v) } ∧
      v.response = some (.registers (BitVec.ofNat 8 (2 * ws.length)) ws)) ∧
    ∀ data : Bytes, data.length < 256 → data.length % 2 = 1 → ∃ v : PduView,
      exec (x (BitVec.ofNat 8 data.length :: data)) s = .next { s with result := some (.pdu v) } ∧
      v.response = none) ∧
  ∀ x ∈ ([Instr.fc0FWriteMultipleCoils, Instr.fc10WriteMultipleHoldingRegisters] : List (Bytes → Instr)),
    ∀ (start count : U16) (s : State), ∃ v : PduView,
      exec (x [(start >>> 8).setWidth 8, start.setWidth 8, (count >>> 8).setWidth 8, count.setWidth 8]) s =
        .next { s with result := some (.pdu v) } ∧
      v.response = some (.echoRange start count)

/-- O26. frameLen by function code, and an RTU frame with a request layout of R75 has exactly that length (R75, R187).
-/
def Obligations.RequestLengthIsTheFixedPrefixLength : Prop :=
  (∀ (b0 fc b2 b3 b4 b5 b6 b7 : Byte) (rest : Bytes),
    frameLen (b0 :: fc :: b2 :: b3 :: b4 :: b5 :: b6 :: b7 :: rest) =
      if fc = 0x0F#8 ∨ fc = 0x10#8 then 9 + b6.toNat else 8) ∧
  ∀ (f : RtuFrame) (r : RequestFields), requestFields f.function f.payload = some r →
    (rtuBytes f).length = frameLen (rtuBytes f) ∧
    (rtuBytes f).length = (match r with
      | .read _ _ => 8
      | .write _ _ => 8
      | .writeCoils _ _ n _ _ => 9 + n.toNat
      | .writeRegisters _ _ n _ _ => 9 + n.toNat)

/-- O27. RA_SHUTDOWN stops a RUNNING port in every phase and leaves its ListenState and stream as they are (R183).
That a turn of a STOPPED port is used up, and that turns are a list of the state, is the model's choice, while R183
says that there is no further step (log entries 19 and 6). -/
def Obligations.ShutdownStopsThePort : Prop :=
  ∀ (s : State) (p : Nat) (q : Port), s.ports[p]? = some q → q.run = .running → s.shutdown = true →
    exec (.raShutdown p) s = .next (s.setPort p { q with run := .stopped }) ∧
    ∀ rest, s.cfg.Legal → s.schedule = .port p :: rest →
      step s = .next ((s.setPort p { q with run := .stopped }).setSchedule rest) ∧
      ∀ (t : State) (later : List Turn), t.cfg.Legal → t.ports[p]? = some { q with run := .stopped } →
        t.schedule = .port p :: later → step t = .next (t.setSchedule later)

/-- O28. A STOPPED reassembler has no further step: scheduling it changes nothing but the schedule (R32, R180, R183).
R32 and R180 say that such a port has no step; that its turn is used up and answers a next state is the model's choice
(log entry 19). -/
def Obligations.StoppedPortTakesNoStep : Prop :=
  ∀ (s : State) (p : Nat) (q : Port) (rest : List Turn), s.cfg.Legal → s.ports[p]? = some q →
    q.run = .stopped → s.schedule = .port p :: rest → step s = .next (s.setSchedule rest)

/-- O29. IDLE: bytes read are discarded; an empty read starts a new frame attempt (R184). -/
def Obligations.IdleDrainsOrStartsAnAttempt : Prop :=
  ∀ (s : State) (p : Nat) (q : Port) (st : Stream), RunningIn s p q .idle →
    (∀ bs, portStepRead s.cfg p q = some (.data bs, st) →
      exec (.raIdleDrain p) s = .next (s.setPort p { q with stream := st })) ∧
    (portStepRead s.cfg p q = some (.empty, st) →
      exec (.raIdleAdvance p) s = .next (s.setPort p { q with
        stream := st
        ls := { phase := .accumulating, packet := [],
                expected := if s.cfg.framing = .fixedPrefix then 8 else 0, error := false } }))

/-- O30. RA_SIL_APPEND appends the bytes read up to max_frame, and sets error exactly when some do not fit (R186,
R189). -/
def Obligations.SilenceAppendIsBounded : Prop :=
  ∀ (s : State) (p : Nat) (q : Port) (st : Stream) (bs : Bytes), RunningIn s p q .accumulating →
    s.cfg.framing = .silence → q.ls.packet.length ≤ s.cfg.maxFrame →
    portStepRead s.cfg p q = some (.data bs, st) →
    exec (.raSilAppend p) s = .next (s.setPort p { q with
      stream := st
      ls := { phase := .accumulating
              packet := (q.ls.packet ++ bs).take s.cfg.maxFrame
              expected := q.ls.expected
              error := q.ls.error || decide (s.cfg.maxFrame < (q.ls.packet ++ bs).length) } })

/-- O31. Under SILENCE an empty read waits while the packet is empty and ends the frame otherwise (R186). -/
def Obligations.SilenceEmptyReadWaitsOrEndsTheFrame : Prop :=
  ∀ (s : State) (p : Nat) (q : Port) (st : Stream), RunningIn s p q .accumulating →
    s.cfg.framing = .silence → portStepRead s.cfg p q = some (.empty, st) →
    (q.ls.packet = [] → exec (.raSilWait p) s = .next (s.setPort p { q with stream := st })) ∧
    (q.ls.packet ≠ [] → exec (.raSilBoundary p) s = .next (s.setPort p { q with
      stream := st, ls := { q.ls with phase := .ready } }))

/-- O32. RA_FIX_APPEND: the packet grows, and a complete prefix or a complete frame is decided as R188 says (R188,
R187, R189). -/
def Obligations.FixedAppendSizesTheFrame : Prop :=
  ∀ (s : State) (p : Nat) (q : Port) (st : Stream) (bs : Bytes), RunningIn s p q .accumulating →
    s.cfg.framing = .fixedPrefix → portStepRead s.cfg p q = some (.data bs, st) →
    exec (.raFixAppend p) s = .next (s.setPort p { q with
      stream := st
      ls :=
        if bs.length < q.ls.expected then
          { phase := .accumulating, packet := q.ls.packet ++ bs, expected := q.ls.expected - bs.length,
            error := q.ls.error }
        else if (q.ls.packet ++ bs).length ≠ 8 then
          { phase := .ready, packet := q.ls.packet ++ bs, expected := 0, error := q.ls.error }
        else if s.cfg.maxFrame < frameLen (q.ls.packet ++ bs) then
          { phase := .ready, packet := q.ls.packet ++ bs, expected := 0, error := true }
        else if frameLen (q.ls.packet ++ bs) = 8 then
          { phase := .ready, packet := q.ls.packet ++ bs, expected := 0, error := q.ls.error }
        else
          { phase := .accumulating, packet := q.ls.packet ++ bs,
            expected := frameLen (q.ls.packet ++ bs) - 8, error := q.ls.error } })

/-- O33. Under FIXED_PREFIX an empty read waits while the packet is empty and aborts the attempt otherwise (R188). -/
def Obligations.FixedEmptyReadWaitsOrAborts : Prop :=
  ∀ (s : State) (p : Nat) (q : Port) (st : Stream), RunningIn s p q .accumulating →
    s.cfg.framing = .fixedPrefix → portStepRead s.cfg p q = some (.empty, st) →
    (q.ls.packet = [] → exec (.raFixWait p) s = .next (s.setPort p { q with stream := st })) ∧
    (q.ls.packet ≠ [] → exec (.raFixAbort p) s = .next (s.setPort p { q with
      stream := st, ls := { q.ls with phase := .ready, error := true } }))

/-- O34. READY with the error flag set: the attempt is discarded without decoding and the port returns to IDLE (R190).
-/
def Obligations.ErroredAttemptIsDiscarded : Prop :=
  ∀ (s : State) (p : Nat) (q : Port), RunningIn s p q .ready → q.ls.error = true →
    exec (.raReadyError p) s = .next (s.setPort p { q with
      ls := { phase := .idle, packet := [], expected := 0, error := false } })

/-- O35. READY with an undecodable packet: it is discarded silently and the port returns to IDLE (R192). -/
def Obligations.InvalidFrameIsDiscarded : Prop :=
  ∀ (s : State) (p : Nat) (q : Port) (reason : FrameError), RunningIn s p q .ready → q.ls.error = false →
    decodeRtu q.ls.packet = .error reason →
    exec (.raReadyInvalid p) s = .next (s.setPort p { q with
      ls := { phase := .idle, packet := [], expected := 0, error := false } })

/-- O36. READY with a valid frame: the sink accepts and the port returns to IDLE, or the step holds (R191). That an
answer the state does not list is a free draw is the model's choice (log entry 5). That a held attempt answers a next
state and uses up the sink's answer is the model's choice, while R191 says that the step is not enabled (log entry
20). -/
def Obligations.ReadyEmitsOrHolds : Prop :=
  ∀ (s : State) (p : Nat) (q : Port) (f : RtuFrame) (handle : Nat),
    RunningIn s p q .ready → q.ls.error = false → decodeRtu q.ls.packet = .ok f →
    (f.address ≠ 0#8 ∨ s.cfg.broadcast = .emit) → s.cfg.portIds[p]? = some handle →
    (∀ k, sinkAnswer s.sink = (true, k) →
      exec (.raReadyEmit p) s = .next (State.setPort
        { s with sink := { k with accepted := s.sink.accepted ++ [{ port := handle, frame := f }] } } p
        { q with ls := { phase := .idle, packet := [], expected := 0, error := false } })) ∧
    (∀ k, sinkAnswer s.sink = (false, k) →
      exec (.raReadyEmit p) s = .next { s with sink := { k with accepted := s.sink.accepted } }) ∧
    (∀ a more, s.sink.answers = a :: more → sinkAnswer s.sink = (a, { s.sink with answers := more })) ∧
    (s.sink.answers = [] →
      sinkAnswer s.sink = (Config.sinkAccepts s.sink.draws, { s.sink with draws := s.sink.draws + 1 }))

/-- O37. READY with a valid address-0 frame under DROP: nothing is emitted and the port returns to IDLE (R193). -/
def Obligations.BroadcastIsDroppedUnderDrop : Prop :=
  ∀ (s : State) (p : Nat) (q : Port) (f : RtuFrame), RunningIn s p q .ready → q.ls.error = false →
    decodeRtu q.ls.packet = .ok f → f.address = 0#8 → s.cfg.broadcast = .drop →
    exec (.raReadyBcastDrop p) s = .next (s.setPort p { q with
      ls := { phase := .idle, packet := [], expected := 0, error := false } })

/-- O38. A read error has exactly the effect of an empty read in every phase (R182). -/
def Obligations.ReadErrorActsAsEmptyRead : Prop :=
  ∀ (s : State) (p : Nat) (q : Port) (phase : Phase) (tape : List Arrival) (rest : List Turn),
    RunningIn s p q phase → phase ≠ .ready → PortInv s.cfg q → s.schedule = .port p :: rest →
    q.stream.tape = .error :: tape →
    step s = step (s.setPort p { q with stream := { q.stream with tape := .silence :: tape } })

/-- O39. Every read returns 1 to read_chunk bytes, and under FIXED_PREFIX never a byte beyond the frame sized so far
(R30, R185, R188). -/
def Obligations.ReadsStayWithinTheirBounds : Prop :=
  ∀ (c : Cfg) (p : Nat) (q : Port) (bs : Bytes) (st : Stream), portStepRead c p q = some (.data bs, st) →
    1 ≤ bs.length ∧ bs.length ≤ c.readChunk ∧
    (PortInv c q → c.framing = .fixedPrefix → q.ls.phase = .accumulating →
      bs.length ≤ q.ls.expected ∧
      (q.ls.packet.length < 8 → (q.ls.packet ++ bs).length ≤ 8) ∧
      (8 ≤ q.ls.packet.length → (q.ls.packet ++ bs).length ≤ frameLen q.ls.packet))

/-- O40. At every step a port's packet stays a contiguous segment of its stream, right before the bytes not yet read
(R59, R30, R186, R188). That the stream is data of the state, and a free draw where it lists nothing, is the model's
choice (log entries 4 and 10). -/
def Obligations.PacketIsTheStreamInOrder : Prop :=
  (∀ q : Port, q.ls.packet = [] → SegmentInv q.stream.content q) ∧
  (∀ (s s' : State) (p : Nat) (q q' : Port) (total : Bytes), s.Inv → step s = .next s' →
    s.ports[p]? = some q → s'.ports[p]? = some q' → SegmentInv total q →
    ∃ arrived, SegmentInv (total ++ arrived) q' ∧
      (arrived = [] ∨ q.stream.tape = [] ∧ arrived = (Config.arrival p q.stream.draws).content)) ∧
  ∀ (s s' : State) (k : StepKind) (p : Nat) (q q' : Port), exec (k.instr p) s = .next s' →
    s.ports[p]? = some q → s'.ports[p]? = some q' → q.ls.phase = .accumulating → q.stream.tape ≠ [] →
    q'.ls.error = false → q'.ls.packet ++ q'.stream.content = q.ls.packet ++ q.stream.content

/-- O41. The rows of R86 select by phase, event, policy and condition, and no two rows overlap (R86, R225). -/
def Obligations.EveryRowOfTheStepTableSelects : Prop :=
  ∀ k : StepKey,
    (kindOf k = some .shutdown ↔ k.event = .shutdown) ∧
    (kindOf k = some .idleDrain ↔ k.phase = .idle ∧ k.event = .data) ∧
    (kindOf k = some .idleAdvance ↔ k.phase = .idle ∧ k.event = .empty) ∧
    (kindOf k = some .silAppend ↔ k.phase = .accumulating ∧ k.event = .data ∧ k.framing = .silence) ∧
    (kindOf k = some .silWait ↔
      k.phase = .accumulating ∧ k.event = .empty ∧ k.framing = .silence ∧ k.packetEmpty = true) ∧
    (kindOf k = some .silBoundary ↔
      k.phase = .accumulating ∧ k.event = .empty ∧ k.framing = .silence ∧ k.packetEmpty = false) ∧
    (kindOf k = some .fixAppend ↔ k.phase = .accumulating ∧ k.event = .data ∧ k.framing = .fixedPrefix) ∧
    (kindOf k = some .fixWait ↔
      k.phase = .accumulating ∧ k.event = .empty ∧ k.framing = .fixedPrefix ∧ k.packetEmpty = true) ∧
    (kindOf k = some .fixAbort ↔
      k.phase = .accumulating ∧ k.event = .empty ∧ k.framing = .fixedPrefix ∧ k.packetEmpty = false) ∧
    (kindOf k = some .readyError ↔ k.phase = .ready ∧ k.event = .none ∧ k.error = true) ∧
    (kindOf k = some .readyInvalid ↔
      k.phase = .ready ∧ k.event = .none ∧ k.error = false ∧ k.verdict = .frameError) ∧
    (kindOf k = some .readyEmit ↔ k.phase = .ready ∧ k.event = .none ∧ k.error = false ∧
      (k.verdict = .addressed ∨ (k.verdict = .broadcast ∧ k.broadcast = .emit))) ∧
    (kindOf k = some .readyBcastDrop ↔ k.phase = .ready ∧ k.event = .none ∧ k.error = false ∧
      k.verdict = .broadcast ∧ k.broadcast = .drop)

/-- O42. A turn of any port answers a next state, and none stops a RUNNING port unless SHUTDOWN is asserted (R194,
R180, R183, R31, R32). That a turn of a STOPPED port, and a held Emit, answer a next state is the model's choice,
while R32 gives the one no step and R31 does not enable the other (log entries 19 and 20). -/
def Obligations.ReassemblerNeverStopsButByShutdown : Prop :=
  ∀ (s : State) (p : Nat) (rest : List Turn), s.Inv → s.schedule = .port p :: rest → p < s.cfg.numPorts →
    ∃ s', step s = .next s' ∧
      ∀ (j : Nat) (q q' : Port), s.ports[j]? = some q → q.run = .running → s'.ports[j]? = some q' →
        q'.run = .stopped → s.shutdown = true

/-- O43. With no turn listed, whatever the environment draws, the machine takes a next state (R9, R30, R194). That a
turn, an arrival or a sink answer that the state does not list is a free draw is the model's choice (log entries 4, 5
and 6). That a drawn turn of a STOPPED port, and a held Emit, answer a next state is the model's choice, while R32
gives the one no step and R31 does not enable the other (log entries 19 and 20). That a drawn SHUTDOWN is a turn of
its own is the model's reading (log entry 21). -/
def Obligations.EnvironmentDrawsNeverStopTheMachine : Prop :=
  ∀ s : State, s.Inv → s.schedule = [] → ∃ s', step s = .next s'

/-- O44. A port's step leaves every other port alone and depends on no other port (R197). The spec marks R197 as its
own inference. -/
def Obligations.PortsAreIndependent : Prop :=
  ∀ (s t s' : State) (k : StepKind) (p : Nat), s.cfg = t.cfg → s.shutdown = t.shutdown → s.sink = t.sink →
    s.ports[p]? = t.ports[p]? → exec (k.instr p) s = .next s' →
    ∃ t', exec (k.instr p) t = .next t' ∧ t'.ports[p]? = s'.ports[p]? ∧ t'.sink = s'.sink ∧
      (∀ j, j ≠ p → t'.ports[j]? = t.ports[j]?) ∧ t'.cfg = t.cfg ∧ t'.shutdown = t.shutdown ∧
      t'.result = t.result ∧ t'.schedule = t.schedule ∧ t'.parked = t.parked ∧ t'.draws = t.draws ∧
      ∃ added, t'.sink.accepted = t.sink.accepted ++ added ∧
        ∀ r ∈ added, t.cfg.portIds[p]? = some r.port

/-- O45. A step makes at most one read or emits at most one Request, and never both (R180, R31, R61). -/
def Obligations.AtMostOneReadOrOneEmit : Prop :=
  ∀ (i : Instr) (s s' : State), exec i s = .next s' →
    (s'.sink.accepted = s.sink.accepted ∧ s'.streams = s.streams) ∨
    (s'.sink.accepted = s.sink.accepted ∧ ∃ p q r st, s.ports[p]? = some q ∧
      portStepRead s.cfg p q = some (r, st) ∧ s'.streams = s.streams.set p st) ∨
    ((∃ r, s'.sink.accepted = s.sink.accepted ++ [r]) ∧ s'.streams = s.streams)

/-- O46. Exactly overflow and an abort set the error flag, and exactly a new attempt and the discard of an errored one
clear it (R29, R188, R189, R181, R190). -/
def Obligations.ErrorFlagWriters : Prop :=
  ∀ (s s' : State) (k : StepKind) (p : Nat) (q q' : Port), exec (k.instr p) s = .next s' →
    s.ports[p]? = some q → s'.ports[p]? = some q' →
    (q.ls.error = false → (q'.ls.error = true ↔ k = .fixAbort ∨
      ∃ bs st, portStepRead s.cfg p q = some (.data bs, st) ∧
        ((k = .silAppend ∧ s.cfg.maxFrame < (q.ls.packet ++ bs).length) ∨
         (k = .fixAppend ∧ q.ls.expected ≤ bs.length ∧ (q.ls.packet ++ bs).length = 8 ∧
            s.cfg.maxFrame < frameLen (q.ls.packet ++ bs))))) ∧
    (q.ls.error = true → (q'.ls.error = false ↔ k = .idleAdvance ∨ k = .readyError))

/-- O47. An emitted Request's frame is the packet, byte for byte, a contiguous segment of the port's stream, and keeps
every guarantee of R195 (R195, R191, R59). -/
def Obligations.EmittedFrameIsThePacket : Prop :=
  ∀ (s s' : State) (p : Nat) (q : Port) (r : Request), s.cfg.Legal → s.ports[p]? = some q → PortInv s.cfg q →
    exec (.raReadyEmit p) s = .next s' → s'.sink.accepted = s.sink.accepted ++ [r] →
    rtuBytes r.frame = q.ls.packet ∧ RequestInv s.cfg r ∧ s.cfg.portIds[p]? = some r.port ∧
    ∀ total, SegmentInv total q → ∃ before, total = before ++ rtuBytes r.frame ++ q.stream.content

/-- O48. After two empty reads, whatever came before, the next well-formed frame is emitted (R196). -/
def Obligations.BadFrameResilience : Prop :=
  ∀ (s : State) (p : Nat) (q : Port) (handle : Nat) (gap pieces rest : List Arrival) (f : RtuFrame)
    (more : List Bool) (later : List Turn),
    s.Inv → s.ports[p]? = some q → q.run = .running → s.shutdown = false → s.cfg.portIds[p]? = some handle →
    q.stream.tape = gap ++ pieces ++ .silence :: rest →
    2 ≤ gap.length → (∀ a ∈ gap, a.isGap = true) → (∀ a ∈ pieces, a.isGap = false) →
    decodeRtu (pieces.flatMap Arrival.content) = .ok f →
    (pieces.flatMap Arrival.content).length ≤ s.cfg.maxFrame →
    (s.cfg.framing = .fixedPrefix →
      (pieces.flatMap Arrival.content).length = frameLen (pieces.flatMap Arrival.content)) →
    (f.address = 0#8 → s.cfg.broadcast = .emit) →
    s.sink.answers = true :: true :: more →
    s.schedule = List.replicate (gap.length + (pieces.flatMap Arrival.content).length + 3) (.port p) ++ later →
    ∃ (n : Nat) (s' : State) (early : List Request),
      n ≤ gap.length + (pieces.flatMap Arrival.content).length + 3 ∧
      Host.Core.run Sys2Proof.core n s = .next s' ∧
      s'.sink.accepted = s.sink.accepted ++ early ++ [{ port := handle, frame := f }] ∧
      early.length ≤ 1 ∧ (q.ls.packet = [] → early = []) ∧
      rtuBytes f = pieces.flatMap Arrival.content ∧
      ∃ q', s'.ports[p]? = some q' ∧ q'.run = .running ∧
        q'.ls = { phase := .idle, packet := [], expected := 0, error := false }

/-- O49. The machine's invariant holds after reset, for every legal strap record (R35, R250, R26). The strap values in
State.reset are the model's choice (log entry 1). -/
def Obligations.InvariantAtReset : Prop :=
  (∀ c : Cfg, c.Legal → (State.resetWith c).Inv) ∧ State.reset.Inv

/-- O50. Every step keeps the machine's invariant (R26, R51, R188, R189, R195). -/
def Obligations.InvariantKeptByEveryStep : Prop :=
  ∀ s s' : State, s.Inv → step s = .next s' → s'.Inv

/-- O51. After reset every port is RUNNING in IDLE with an empty packet, CFG holds the straps, and nothing is pending
(R35, R251). R35 says the first part; that SHUTDOWN is deasserted, which R251 asks of the environment, and that the
log of accepted Requests is empty are the model's choice (log entry 29). -/
def Obligations.ResetValues : Prop :=
  ∀ c : Cfg, (State.resetWith c).cfg = c ∧ (State.resetWith c).ports.length = c.numPorts ∧
    (∀ p, p < c.numPorts → ∃ q, (State.resetWith c).ports[p]? = some q ∧ q.run = .running ∧
      q.ls.phase = .idle ∧ q.ls.packet = [] ∧ q.ls.expected = 0 ∧ q.ls.error = false) ∧
    (State.resetWith c).sink.accepted = [] ∧ (State.resetWith c).result = none ∧
    (State.resetWith c).shutdown = false

/-- O52. A reset loads the straps, restarts every port in IDLE, STOPPED ones too, and leaves the waiting bytes on
their ports (R250, R251, R32). That a reset is a turn with its straps, deasserts SHUTDOWN, clears the result and
begins the log of accepted Requests anew is the model's choice (log entry 17). That the streams of ports the straps
leave out are kept is the model's choice, the spec being silent (log entry 34). -/
def Obligations.ResetRestartsTheBlock : Prop :=
  ∀ (s : State) (c : Cfg) (rest : List Turn), s.cfg.Legal → s.schedule = .reset c :: rest →
    (c.Legal → ∃ s', step s = .next s' ∧ s'.cfg = c ∧ s'.ports.length = c.numPorts ∧
      (∀ p, p < c.numPorts → ∃ q', s'.ports[p]? = some q' ∧ q'.run = .running ∧
        q'.ls = { phase := .idle, packet := [], expected := 0, error := false } ∧
        readRequest c q'.ls = some (.nonblock, c.readChunk) ∧
        q'.stream = s.streams.getD p { tape := [], draws := 0 } ∧
        ∀ q, s.ports[p]? = some q → q'.stream = q.stream) ∧
      s'.parked = s.streams.drop c.numPorts ∧
      s'.shutdown = false ∧ s'.sink.accepted = [] ∧ s'.result = none ∧ s'.schedule = rest) ∧
    (¬ c.Legal → step s = .refused .illegalConfig)

/-- O53. With an illegal CFG value every step is refused (R251, R21, R7). -/
def Obligations.IllegalConfigurationIsRefused : Prop :=
  ∀ s : State, (s.cfg.portIds.length ≠ s.cfg.numPorts ∨ ¬ s.cfg.portIds.Nodup ∨ s.cfg.readChunk = 0 ∨
      s.cfg.maxFrame < 8 ∨ s.cfg.readTimeout = 0 ∨ s.cfg.checkProtocolId = true) →
    step s = .refused .illegalConfig

/-- O54. No instruction writes CFG (R21, R228), the SHUTDOWN input (R32, R61), or the schedule, the parked streams and
the count of drawn turns. Those last three fields are the model's own (log entries 6 and 34), and that the table's
function-code rows are run as operations is the model's choice (log entry 7). -/
def Obligations.ConfigurationIsNeverWritten : Prop :=
  ∀ (i : Instr) (s s' : State), exec i s = .next s' → s'.cfg = s.cfg ∧ s'.shutdown = s.shutdown ∧
    s'.schedule = s.schedule ∧ s'.ports.length = s.ports.length ∧ s'.parked = s.parked ∧ s'.draws = s.draws

/-- O55. Once SHUTDOWN is asserted it stays asserted until a reset (R32). R32 says that it stays asserted; that its
assertion is a turn of its own is the model's reading (log entry 21). -/
def Obligations.ShutdownStaysAsserted : Prop :=
  (∀ s s' : State, s.shutdown = true → (∀ c rest, s.schedule ≠ .reset c :: rest) → step s = .next s' →
    s'.shutdown = true ∧ ∀ (j : Nat) (q q' : Port), s.ports[j]? = some q → q.run = .stopped →
      s'.ports[j]? = some q' → q'.run = .stopped) ∧
  ∀ (s : State) (rest : List Turn), s.cfg.Legal → s.schedule = .shutdown :: rest →
    step s = .next { s with shutdown := true, schedule := rest }

/-- O56. A step takes the first turn off the schedule and runs the instruction its code decodes to (R10, R85, R86,
R180). That a step takes the first turn of a list, that an invocation is such a turn, and that a PDU is one, are the
model's choice (log entries 6, 8 and 7). -/
def Obligations.StepRunsTheDecodedInstruction : Prop :=
  ∀ (s : State) (rest : List Turn), s.cfg.Legal →
    (∀ bs i, s.schedule = .command bs :: rest → decode (.command bs) = .ok i →
      step s = exec i (s.setSchedule rest)) ∧
    (∀ bs i, s.schedule = .pdu bs :: rest → decode (.pdu bs) = .ok i → step s = exec i (s.setSchedule rest)) ∧
    (∀ p q, s.schedule = .port p :: rest → s.ports[p]? = some q → q.run = .running →
      ∃ k : StepKind, decode (.select (stepKey s p q) p) = .ok (k.instr p) ∧
        step s = exec (k.instr p) (s.setSchedule rest))

/-- O57. Decoding the encoding of any well-formed instruction gives it back (R85, R86, R74, R79). The marshalling of
command operands is the model's choice (log entry 2). -/
def Obligations.DecodeOfEncodeIsTheInstruction : Prop :=
  ∀ i : Instr, i.wellFormed = true → decode (encode i) = .ok i

/-- O58. Every command and every PDU that decodes is the encoding of one well-formed instruction (R85, R79, R74). The
marshalling of command operands is the model's choice (log entry 2). -/
def Obligations.EncodeOfDecodeIsTheCode : Prop :=
  (∀ (bs : Bytes) (i : Instr), decode (.command bs) = .ok i → i.wellFormed = true ∧ encode i = .command bs) ∧
  ∀ (fn : Byte) (pl : Bytes), ∃ i, decode (.pdu (fn :: pl)) = .ok i ∧ i.wellFormed = true ∧
    encode i = .pdu (fn :: pl)

/-- O59. A command whose code byte is not one of the eleven assigned codes is refused (R85, R222). -/
def Obligations.UnassignedCommandsAreRefused : Prop :=
  (∀ (code : Byte) (bs : Bytes), code ∉ [0x01#8, 0x02#8, 0x10#8, 0x11#8, 0x20#8, 0x21#8, 0x22#8, 0x28#8, 0x29#8,
      0x2A#8, 0x30#8] → decode (.command (code :: bs)) = .error (.unassigned code) ∧
      ∀ (s : State) (rest : List Turn), s.cfg.Legal → s.schedule = .command (code :: bs) :: rest →
        step s = .refused (.badCode (.unassigned code))) ∧
  ∀ code ∈ [0x01#8, 0x02#8, 0x10#8, 0x11#8, 0x20#8, 0x21#8, 0x22#8, 0x28#8, 0x29#8, 0x2A#8, 0x30#8],
    ∃ bs i, decode (.command (code :: bs)) = .ok i

/-- O60. Words written out from the encoding tables decode to their instructions (R85, R86, R74, R77). The marshalling
of the command's operand is the model's choice (log entry 2). -/
def Obligations.SampleWordsDecode : Prop :=
  decode (.command [0x01#8, 1#8, 0xFF#8, 0#8]) = .ok (.crc16 [0xFF#8]) ∧
  decode (.pdu [0x03#8, 0x00#8, 0x05#8, 0x00#8, 0x01#8]) =
    .ok (.fc03ReadHoldingRegisters [0x00#8, 0x05#8, 0x00#8, 0x01#8]) ∧
  decode (.pdu [0x83#8, 0x02#8]) = .ok (.fcException 0x83#8 [0x02#8]) ∧
  decode (.select ⟨.accumulating, .empty, .silence, .drop, false, true, .addressed⟩ 3) = .ok (.raSilBoundary 3)
end

