-- ==== Sys2Proof/Laws/Bytes.lean ====
section
/-! SUPPORT. What the byte-order and packing helpers of Machine/Bytes.lean do. -/

namespace Sys2Proof.Machine

/-! ### 16-bit values and their two bytes -/

@[simp] theorem join16_lo8_hi8 (v : U16) : join16 (lo8 v) (hi8 v) = v := by
  apply BitVec.eq_of_getLsbD_eq
  intro i hi
  simp only [join16, lo8, hi8, BitVec.getLsbD_or, BitVec.getLsbD_setWidth, BitVec.getLsbD_extractLsb',
    BitVec.getLsbD_shiftLeft]
  by_cases h : i < 8
  · simp [h, hi]
  · have h8 : i - 8 < 8 := by omega
    simp [h, hi, h8, show 8 + (i - 8) = i by omega]; omega

@[simp] theorem lo8_join16 (lo hi : Byte) : lo8 (join16 lo hi) = lo := by
  apply BitVec.eq_of_getLsbD_eq
  intro i h
  simp [join16, lo8, h]; omega

@[simp] theorem hi8_join16 (lo hi : Byte) : hi8 (join16 lo hi) = hi := by
  apply BitVec.eq_of_getLsbD_eq
  intro i h
  simp [join16, hi8, h, show 8 + i < 16 by omega]

@[simp] theorem be16_join16 (lo hi : Byte) : be16 (join16 lo hi) = [hi, lo] := by simp [be16]
@[simp] theorem le16_join16 (lo hi : Byte) : le16 (join16 lo hi) = [lo, hi] := by simp [le16]

/-! ### Words, high byte first -/

@[simp] theorem wordBytesBe_nil : wordBytesBe [] = [] := rfl
@[simp] theorem wordBytesBe_cons (w : U16) (ws : List U16) :
    wordBytesBe (w :: ws) = hi8 w :: lo8 w :: wordBytesBe ws := rfl

/-- Reading words is inverse to writing them. -/
@[simp] theorem beWords_wordBytesBe (ws : List U16) : beWords (wordBytesBe ws) = some ws := by
  induction ws with
  | nil => rfl
  | cons w ws ih => simp [beWords, ih]

/-- What reading words answers: the words whose bytes these are. -/
theorem beWords_eq_some {data : Bytes} {ws : List U16} : beWords data = some ws ↔ data = wordBytesBe ws := by
  refine ⟨fun h => ?_, fun h => h ▸ beWords_wordBytesBe ws⟩
  induction data using beWords.induct generalizing ws with
  | case1 => cases h; rfl
  | case2 b => cases h
  | case3 hi lo rest words hr ih => rw [beWords, hr] at h; cases h; simp [ih hr]
  | case4 hi lo rest hr => rw [beWords, hr] at h; cases h

@[simp] theorem wordBytesBe_length (ws : List U16) : (wordBytesBe ws).length = 2 * ws.length := by
  induction ws with
  | nil => rfl
  | cons w ws ih => simp [ih]; omega

/-! ### Packed bits -/

@[simp] theorem unpackBits_length (data : Bytes) : (unpackBits data).length = 8 * data.length := by
  induction data with
  | nil => rfl
  | cons b data ih => simp only [unpackBits, List.flatMap_cons, List.length_append] at ih ⊢; simp [ih]; omega

/-- Bit `i` of a packed string is bit `i % 8` of byte `i / 8`. -/
theorem unpackBits_getElem? (data : Bytes) (i : Nat) (h : i < 8 * data.length) :
    (unpackBits data)[i]? = some ((data.getD (i / 8) 0#8).getLsbD (i % 8)) := by
  induction data generalizing i with
  | nil => simp at h
  | cons b data ih =>
    simp only [unpackBits, List.flatMap_cons]
    by_cases h8 : i < 8
    · rw [List.getElem?_append_left (by simpa using h8)]
      simp [h8, Nat.div_eq_of_lt h8, Nat.mod_eq_of_lt h8]
    · rw [List.getElem?_append_right (by simp; omega)]
      have := ih (i - 8) (by simp at h; omega)
      simp only [List.length_map, List.length_range]
      rw [show List.flatMap (fun b : Byte => (List.range 8).map b.getLsbD) data = unpackBits data from rfl, this,
        show i / 8 = (i - 8) / 8 + 1 by omega, show (i - 8) % 8 = i % 8 by omega]
      rfl

/-- Bit `i` of a packed byte is bit `i` of the list, and 0 past its end. -/
theorem packByte_getLsbD (bits : List Bool) (i : Nat) (h : i < 8) :
    (packByte bits).getLsbD i = bits.getD i false := by
  unfold packByte
  generalize bits.getD = g
  simp only [show List.range 8 = [0, 1, 2, 3, 4, 5, 6, 7] from rfl, List.foldl_cons, List.foldl_nil]
  have key : ∀ a : Fin 8 → Bool, ∀ j : Fin 8, (([0, 1, 2, 3, 4, 5, 6, 7] : List (Fin 8)).foldl
      (fun (b : Byte) k => if a k then b ||| (1#8 <<< k.val) else b) 0).getLsbD j = a j := by decide +kernel
  exact key (fun k => g k false) ⟨i, h⟩

@[simp] theorem packBits_length (bits : List Bool) : (packBits bits).length = (bits.length + 7) / 8 := by
  simp [packBits]

/-- Bit `i % 8` of packed byte `i / 8` is bit `i` of the list, and 0 past its end. -/
theorem packBits_bit (bits : List Bool) (i : Nat) (h : i < 8 * (packBits bits).length) :
    ((packBits bits).getD (i / 8) 0#8).getLsbD (i % 8) = bits.getD i false := by
  rw [packBits_length] at h
  have hk : i / 8 < (bits.length + 7) / 8 := by omega
  simp only [packBits, List.getD_eq_getElem?_getD, List.getElem?_map, List.getElem?_range hk, Option.map_some,
    Option.getD_some]
  rw [packByte_getLsbD _ _ (Nat.mod_lt _ (by omega)), List.getD_eq_getElem?_getD, List.getElem?_drop,
    Nat.div_add_mod]

/-- Two byte strings of one length with the same packed bits are equal. -/
theorem eq_of_bits {a b : Bytes} (hl : a.length = b.length) (h : ∀ i, i < 8 * a.length →
    (a.getD (i / 8) 0#8).getLsbD (i % 8) = (b.getD (i / 8) 0#8).getLsbD (i % 8)) : a = b := by
  apply List.ext_getElem hl
  intro k ha hb
  apply BitVec.eq_of_getLsbD_eq
  intro j hj
  have := h (8 * k + j) (by omega)
  rw [show (8 * k + j) / 8 = k by omega, show (8 * k + j) % 8 = j by omega] at this
  simpa [List.getD_eq_getElem?_getD, ha, hb] using this

/-- What reading coils answers: `count` coils, packed as R76 says. -/
theorem coilsOf_eq_some {count : Nat} {data : Bytes} {bits : List Bool} :
    coilsOf count data = some bits ↔ bits.length = count ∧ data = packBits bits := by
  have back : ∀ l : List Bool, (unpackBits (packBits l)).take l.length = l := by
    intro l
    apply List.ext_getElem?
    intro i
    by_cases hi : i < l.length
    · have hb : i < 8 * (packBits l).length := by rw [packBits_length]; omega
      rw [List.getElem?_take_of_lt hi, unpackBits_getElem? _ _ hb, packBits_bit _ _ hb]
      simp [List.getD_eq_getElem?_getD, hi]
    · simp [hi]
  unfold coilsOf
  constructor
  · intro h
    simp only at h
    split at h
    · rename_i hc; cases h; exact ⟨hc.1, hc.2.symm⟩
    · cases h
  · rintro ⟨rfl, rfl⟩
    simp [back]

end Sys2Proof.Machine
end

