-- ==== Sys2Proof/Laws/State.lean ====
section
/-! SUPPORT. One lemma per field per named update of the state, and what a replaced port reads as. -/

namespace Sys2Proof.Machine

namespace State

variable (s : State) (p : Nat) (q : Port) (k : Sink) (r : CmdResult) (l : List Turn)

@[simp] theorem setPort_cfg : (s.setPort p q).cfg = s.cfg := rfl
@[simp] theorem setPort_ports : (s.setPort p q).ports = s.ports.set p q := rfl
@[simp] theorem setPort_parked : (s.setPort p q).parked = s.parked := rfl
@[simp] theorem setPort_shutdown : (s.setPort p q).shutdown = s.shutdown := rfl
@[simp] theorem setPort_sink : (s.setPort p q).sink = s.sink := rfl
@[simp] theorem setPort_result : (s.setPort p q).result = s.result := rfl
@[simp] theorem setPort_schedule : (s.setPort p q).schedule = s.schedule := rfl
@[simp] theorem setPort_draws : (s.setPort p q).draws = s.draws := rfl

@[simp] theorem setSink_cfg : (s.setSink k).cfg = s.cfg := rfl
@[simp] theorem setSink_ports : (s.setSink k).ports = s.ports := rfl
@[simp] theorem setSink_parked : (s.setSink k).parked = s.parked := rfl
@[simp] theorem setSink_shutdown : (s.setSink k).shutdown = s.shutdown := rfl
@[simp] theorem setSink_sink : (s.setSink k).sink = k := rfl
@[simp] theorem setSink_result : (s.setSink k).result = s.result := rfl
@[simp] theorem setSink_schedule : (s.setSink k).schedule = s.schedule := rfl
@[simp] theorem setSink_draws : (s.setSink k).draws = s.draws := rfl

@[simp] theorem setResult_cfg : (s.setResult r).cfg = s.cfg := rfl
@[simp] theorem setResult_ports : (s.setResult r).ports = s.ports := rfl
@[simp] theorem setResult_parked : (s.setResult r).parked = s.parked := rfl
@[simp] theorem setResult_shutdown : (s.setResult r).shutdown = s.shutdown := rfl
@[simp] theorem setResult_sink : (s.setResult r).sink = s.sink := rfl
@[simp] theorem setResult_result : (s.setResult r).result = some r := rfl
@[simp] theorem setResult_schedule : (s.setResult r).schedule = s.schedule := rfl
@[simp] theorem setResult_draws : (s.setResult r).draws = s.draws := rfl

@[simp] theorem setSchedule_cfg : (s.setSchedule l).cfg = s.cfg := rfl
@[simp] theorem setSchedule_ports : (s.setSchedule l).ports = s.ports := rfl
@[simp] theorem setSchedule_parked : (s.setSchedule l).parked = s.parked := rfl
@[simp] theorem setSchedule_shutdown : (s.setSchedule l).shutdown = s.shutdown := rfl
@[simp] theorem setSchedule_sink : (s.setSchedule l).sink = s.sink := rfl
@[simp] theorem setSchedule_result : (s.setSchedule l).result = s.result := rfl
@[simp] theorem setSchedule_schedule : (s.setSchedule l).schedule = l := rfl
@[simp] theorem setSchedule_draws : (s.setSchedule l).draws = s.draws := rfl

/-- A port that exists reads as the record it was set to. -/
theorem setPort_self {q' : Port} (h : s.ports[p]? = some q') : (s.setPort p q).ports[p]? = some q := by
  have hp : p < s.ports.length := (List.getElem?_eq_some_iff.mp h).1
  simp [hp]

/-- Every other port is left alone. -/
theorem setPort_other {j : Nat} (h : p ≠ j) : (s.setPort p q).ports[j]? = s.ports[j]? := by
  simp [List.getElem?_set_ne h]

end State

@[simp] theorem toIdle_eq_reset (ls : ListenState) : toIdle ls = ListenState.reset := rfl
@[simp] theorem newAttempt_phase (c : Cfg) (ls : ListenState) : (newAttempt c ls).phase = .accumulating := rfl
@[simp] theorem newAttempt_packet (c : Cfg) (ls : ListenState) : (newAttempt c ls).packet = [] := rfl
@[simp] theorem newAttempt_error (c : Cfg) (ls : ListenState) : (newAttempt c ls).error = false := rfl
@[simp] theorem toReady_phase (ls : ListenState) : (toReady ls).phase = .ready := rfl
@[simp] theorem toReady_packet (ls : ListenState) : (toReady ls).packet = ls.packet := rfl
@[simp] theorem toReady_expected (ls : ListenState) : (toReady ls).expected = ls.expected := rfl
@[simp] theorem toReady_error (ls : ListenState) : (toReady ls).error = ls.error := rfl
@[simp] theorem raiseError_phase (ls : ListenState) : (raiseError ls).phase = ls.phase := rfl
@[simp] theorem raiseError_packet (ls : ListenState) : (raiseError ls).packet = ls.packet := rfl
@[simp] theorem raiseError_expected (ls : ListenState) : (raiseError ls).expected = ls.expected := rfl
@[simp] theorem raiseError_error (ls : ListenState) : (raiseError ls).error = true := rfl

end Sys2Proof.Machine
end

