-- ==== Sys2Proof/Laws/Ops.lean ====
section
/-! SUPPORT. For each shared operation, one lemma that says what it can do. -/

namespace Sys2Proof.Machine

/-! ### The port read -/

/-- Everything a PortRead can do: data within its bound, or an empty or failed read. -/
theorem portRead_cases (p : Nat) (mode : ReadMode) (max : Nat) (st : Stream) :
    (∃ bs, (portRead p mode max st).1 = .data bs ∧ 1 ≤ bs.length ∧ bs.length ≤ max) ∨
      (portRead p mode max st).1 = .empty ∨ (portRead p mode max st).1 = .error := by
  unfold portRead
  split
  · simp
  · rename_i hmax
    cases nextArrival p st with
    | mk a st' =>
      cases a with
      | silence => simp
      | error => simp
      | bytes bs =>
        by_cases hb : bs = []
        · simp [hb]
        · have : 1 ≤ bs.length := List.length_pos_iff.mpr hb
          by_cases hl : bs.length ≤ max
          · simp [hb, hl]; omega
          · left; exact ⟨bs.take max, by simp [hb, hl], by simp; omega, by simp⟩

/-- A read of a stream that lists something returns its next bytes and leaves the rest, in order. -/
theorem portRead_content (p : Nat) (mode : ReadMode) (max : Nat) (st : Stream) (h : st.tape ≠ []) :
    (portRead p mode max st).1.bytes ++ (portRead p mode max st).2.content = st.content := by
  obtain ⟨tape, draws⟩ := st
  cases tape with
  | nil => simp at h
  | cons a rest =>
    unfold portRead
    by_cases hm : max = 0
    · simp [hm, ReadResult.bytes]
    · cases a with
      | silence => simp [hm, nextArrival, ReadResult.bytes, Stream.content, Arrival.content]
      | error => simp [hm, nextArrival, ReadResult.bytes, Stream.content, Arrival.content]
      | bytes bs =>
        by_cases hb : bs = []
        · simp [hm, hb, nextArrival, ReadResult.bytes, Stream.content, Arrival.content]
        · by_cases hl : bs.length ≤ max
          · simp [hm, hb, hl, nextArrival, ReadResult.bytes, Stream.content, Arrival.content]
          · simp only [hm, hb, hl, nextArrival, ReadResult.bytes, Stream.content, Arrival.content, if_false,
              List.flatMap_cons]
            rw [← List.append_assoc, List.take_append_drop]

/-- Everything a read does to a stream: the bytes it returns and those it leaves are those the stream listed, followed by
the free draw where it listed nothing and drew. -/
theorem portRead_arrived (p : Nat) (mode : ReadMode) (max : Nat) (st : Stream) :
    ∃ arrived, (portRead p mode max st).1.bytes ++ (portRead p mode max st).2.content = st.content ++ arrived ∧
      (arrived = [] ∨ st.tape = [] ∧ arrived = (Config.arrival p st.draws).content) := by
  by_cases h : st.tape = []
  · by_cases hm : max = 0
    · exact ⟨[], by simp [portRead, hm, ReadResult.bytes], .inl rfl⟩
    · refine ⟨(Config.arrival p st.draws).content, ?_, .inr ⟨h, rfl⟩⟩
      simp only [portRead, hm, if_false, nextArrival, h, Stream.content]
      cases Config.arrival p st.draws with
      | silence => simp [ReadResult.bytes, Arrival.content]
      | error => simp [ReadResult.bytes, Arrival.content]
      | bytes bs =>
        by_cases hb : bs = []
        · simp [hb, ReadResult.bytes, Arrival.content]
        · by_cases hl : bs.length ≤ max <;> simp [hb, hl, ReadResult.bytes, Arrival.content]
  · exact ⟨[], by rw [List.append_nil, portRead_content p mode max st h], .inl rfl⟩

@[simp] theorem normalise_data (bs : Bytes) : normalise (.data bs) = .data bs := rfl
@[simp] theorem normalise_empty : normalise .empty = .empty := rfl
@[simp] theorem normalise_error : normalise .error = .empty := rfl
@[simp] theorem bytes_data (bs : Bytes) : (ReadResult.data bs).bytes = bs := rfl
@[simp] theorem bytes_empty : ReadResult.empty.bytes = [] := rfl
@[simp] theorem bytes_error : ReadResult.error.bytes = [] := rfl

/-- A step's read, once normalised, is data within its bound or empty. -/
theorem portStepRead_some {c : Cfg} {p : Nat} {q : Port} {r : ReadResult} {st : Stream}
    (h : portStepRead c p q = some (r, st)) :
    ∃ mode max, readRequest c q.ls = some (mode, max) ∧
      ((∃ bs, r = .data bs ∧ 1 ≤ bs.length ∧ bs.length ≤ max) ∨ r = .empty) := by
  unfold portStepRead at h
  split at h
  · cases h
  · rename_i mode max hreq
    refine ⟨mode, max, hreq, ?_⟩
    have hc := portRead_cases p mode max q.stream
    cases hr : portRead p mode max q.stream with
    | mk r' st' =>
      rw [hr] at h hc
      simp only [Option.some.injEq, Prod.mk.injEq] at h
      obtain ⟨rfl, rfl⟩ := h
      rcases hc with ⟨bs, hb, h1, h2⟩ | hb | hb
      · left; exact ⟨bs, by simp_all, h1, h2⟩
      · right; simp_all
      · right; simp_all

/-- A step makes no read exactly in READY. -/
theorem portStepRead_none {c : Cfg} {p : Nat} {q : Port} :
    portStepRead c p q = none ↔ q.ls.phase = .ready := by
  unfold portStepRead readRequest
  cases hp : q.ls.phase <;> cases c.framing <;> simp

/-! ### The sink -/

/-- Everything an Emit can do: the sink accepts, and its log grows by this Request; or it does not, and the log
stays. -/
theorem emit_cases (r : Request) (k : Sink) :
    (∃ k', emit r k = (true, k') ∧ k'.accepted = k.accepted ++ [r]) ∨
      (∃ k', emit r k = (false, k') ∧ k'.accepted = k.accepted) := by
  unfold emit sinkAnswer
  cases k.answers with
  | nil => cases h : Config.sinkAccepts k.draws <;> simp
  | cons a rest => cases a <;> simp

/-! ### Writing the ListenState -/

/-- What a bounded append leaves alone, and its bound (R189). -/
theorem appendBounded_spec (c : Cfg) (bs : Bytes) (ls : ListenState) (h : ls.packet.length ≤ c.maxFrame) :
    (appendBounded c bs ls).packet.length ≤ c.maxFrame ∧ (appendBounded c bs ls).phase = ls.phase ∧
      (appendBounded c bs ls).expected = ls.expected := by
  unfold appendBounded
  simp only
  split
  · refine ⟨?_, rfl, rfl⟩
    simp; omega
  · refine ⟨?_, rfl, rfl⟩
    simp; omega

/-- An append never shortens the packet. -/
theorem appendBounded_packet (c : Cfg) (bs : Bytes) (ls : ListenState) :
    ∃ tl, (appendBounded c bs ls).packet = ls.packet ++ tl := by
  unfold appendBounded
  simp only
  split
  · exact ⟨_, rfl⟩
  · exact ⟨_, rfl⟩

/-- What a completed prefix decides (R188): overflow, a complete 8-byte frame, or the rest of a longer one. -/
theorem sizePrefix_cases (c : Cfg) (ls : ListenState) :
    (c.maxFrame < frameLen ls.packet ∧ sizePrefix c ls = toReady (raiseError ls)) ∨
      (frameLen ls.packet ≤ c.maxFrame ∧ frameLen ls.packet = 8 ∧ sizePrefix c ls = toReady ls) ∨
      (frameLen ls.packet ≤ c.maxFrame ∧ frameLen ls.packet ≠ 8 ∧
        sizePrefix c ls = { ls with expected := frameLen ls.packet - 8 }) := by
  unfold sizePrefix prefixLen
  by_cases h : c.maxFrame < frameLen ls.packet
  · simp [h]
  · by_cases h8 : frameLen ls.packet = 8
    · right; left; simp [h8]; omega
    · right; right; simp [h, h8]; omega

/-- A frame length is at least the prefix's. -/
theorem frameLen_ge (packet : Bytes) : 8 ≤ frameLen packet := by
  unfold frameLen; split <;> omega

/-- The frame length is told by the first 8 bytes. -/
theorem frameLen_append (packet bs : Bytes) (h : 8 ≤ packet.length) : frameLen (packet ++ bs) = frameLen packet := by
  unfold frameLen byteAt
  rw [List.getD_append _ _ _ _ (by omega), List.getD_append _ _ _ _ (by omega)]

/-! ### Steps -/

/-- A step of a port that answers at all: the port exists, is RUNNING, its state selects the kind, and the body
answers. -/
theorem portStep_next {k : StepKind} {p : Nat} {s s' : State} {body : Port → Answer}
    (h : portStep k p s body = .next s') :
    ∃ q, s.ports[p]? = some q ∧ q.run = .running ∧ kindOf (stepKey s p q) = some k ∧ body q = .next s' := by
  unfold portStep at h
  split at h
  · cases h
  · rename_i q hq
    split at h
    · rename_i hk; exact ⟨q, hq, hk.1, hk.2, h⟩
    · cases h

/-- A selected step runs its body. -/
theorem portStep_selected {k : StepKind} {p : Nat} {s : State} {q : Port} {body : Port → Answer}
    (hq : s.ports[p]? = some q) (hr : q.run = .running) (hk : kindOf (stepKey s p q) = some k) :
    portStep k p s body = body q := by
  simp [portStep, hq, hr, hk]

/-- A reading step that answers: its read, and the state after it. -/
theorem readingStep_next {k : StepKind} {p : Nat} {s s' : State} {update : Bytes → ListenState → ListenState}
    (h : readingStep k p s update = .next s') :
    ∃ q r st, s.ports[p]? = some q ∧ q.run = .running ∧ kindOf (stepKey s p q) = some k ∧
      portStepRead s.cfg p q = some (r, st) ∧
      s' = s.setPort p { q with ls := update r.bytes q.ls, stream := st } := by
  obtain ⟨q, hq, hr, hk, hb⟩ := portStep_next h
  split at hb
  · cases hb
  · rename_i r st hread
    cases hb
    exact ⟨q, r, st, hq, hr, hk, hread, rfl⟩

/-- A discarding step that answers. -/
theorem discardAttempt_next {k : StepKind} {p : Nat} {s s' : State} (h : discardAttempt k p s = .next s') :
    ∃ q, s.ports[p]? = some q ∧ q.run = .running ∧ kindOf (stepKey s p q) = some k ∧
      s' = s.setPort p { q with ls := ListenState.reset } := by
  obtain ⟨q, hq, hr, hk, hb⟩ := portStep_next h
  cases hb
  exact ⟨q, hq, hr, hk, rfl⟩

@[simp] theorem answer_eq (r : CmdResult) (s : State) : answer r s = .next (s.setResult r) := rfl
@[simp] theorem raiseFrameError_eq (e : FrameError) (s : State) :
    raiseFrameError e s = .next (s.setResult (.frameError e)) := rfl

/-! ### The selection -/

/-- The event of a running port's step, read off its phase and its read. -/
theorem stepEvent_eq (s : State) (p : Nat) (q : Port) (hs : s.shutdown = false) :
    stepEvent s p q = match portStepRead s.cfg p q with
      | none => .none
      | some (.data _, _) => .data
      | some (_, _) => .empty := by
  rw [stepEvent, hs]
  rfl

/-- SHUTDOWN comes before everything else (R225). -/
theorem kindOf_shutdown (s : State) (p : Nat) (q : Port) (hs : s.shutdown = true) :
    kindOf (stepKey s p q) = some .shutdown := by
  simp [kindOf, stepKey, stepEvent, hs]

/-- Every state a port can be in selects exactly one step kind (R86, R194). -/
theorem kindOf_total (s : State) (p : Nat) (q : Port) : ∃ k, kindOf (stepKey s p q) = some k := by
  by_cases hs : s.shutdown = true
  · exact ⟨_, kindOf_shutdown s p q hs⟩
  · have hs : s.shutdown = false := by simpa using hs
    cases hr : portStepRead s.cfg p q with
    | none =>
      have hp := portStepRead_none.mp hr
      have he : stepEvent s p q = .none := by rw [stepEvent_eq s p q hs, hr]
      simp only [kindOf, stepKey, he, hp]
      split
      · exact ⟨_, rfl⟩
      · split <;> exact ⟨_, rfl⟩
    | some x =>
      obtain ⟨r, st⟩ := x
      have hp : q.ls.phase ≠ .ready := fun h => by simp [portStepRead_none.mpr h] at hr
      obtain ⟨_, _, _, ⟨bs, rfl, _⟩ | rfl⟩ := portStepRead_some hr
      · have he : stepEvent s p q = .data := by rw [stepEvent_eq s p q hs, hr]
        simp only [kindOf, stepKey, he]
        cases hph : q.ls.phase
        · exact ⟨_, rfl⟩
        · cases s.cfg.framing <;> exact ⟨_, rfl⟩
        · exact absurd hph hp
      · have he : stepEvent s p q = .empty := by rw [stepEvent_eq s p q hs, hr]
        simp only [kindOf, stepKey, he]
        cases hph : q.ls.phase
        · exact ⟨_, rfl⟩
        · cases s.cfg.framing <;> cases q.ls.packet.isEmpty <;> exact ⟨_, rfl⟩
        · exact absurd hph hp

/-! ### Reset -/

@[simp] theorem resetPort_run (s : State) (p : Nat) : (resetPort s p).run = .running := rfl
@[simp] theorem resetPort_ls (s : State) (p : Nat) : (resetPort s p).ls = ListenState.reset := rfl
@[simp] theorem resetPort_stream (s : State) (p : Nat) : (resetPort s p).stream = s.streams.getD p Stream.fresh := rfl

/-- A port the machine has is one of its known byte sources. -/
theorem streams_of_port {s : State} {p : Nat} {q : Port} (h : s.ports[p]? = some q) :
    s.streams.getD p Stream.fresh = q.stream := by
  obtain ⟨hp, rfl⟩ := List.getElem?_eq_some_iff.mp h
  rw [State.streams, List.getD_eq_getElem?_getD, List.getElem?_append_left (by simpa using hp)]
  simp [hp]

/-- A reset loses no byte source the state knows. -/
theorem applyReset_streams (c : Cfg) (s : State) (p : Nat) :
    (applyReset c s).streams.getD p Stream.fresh = s.streams.getD p Stream.fresh := by
  have hs : (applyReset c s).streams =
      (List.range c.numPorts).map (fun p => s.streams.getD p Stream.fresh) ++ s.streams.drop c.numPorts := by
    simp [State.streams, applyReset, Function.comp_def]
  rw [hs, List.getD_eq_getElem?_getD, List.getD_eq_getElem?_getD]
  by_cases hp : p < c.numPorts
  · rw [List.getElem?_append_left (by simpa using hp)]
    simp [hp, List.getD_eq_getElem?_getD]
  · rw [List.getElem?_append_right (by simp; omega)]
    simp [show c.numPorts + (p - c.numPorts) = p by omega]

/-- Replacing a port's record leaves every byte source but its own. -/
theorem setPort_streams {s : State} {p : Nat} {q q' : Port} (h : s.ports[p]? = some q) :
    (s.setPort p q').streams = s.streams.set p q'.stream := by
  have hp : p < s.ports.length := (List.getElem?_eq_some_iff.mp h).1
  simp [State.streams, List.map_set, hp]

/-! ### The schedule -/

/-- A listed turn is the one taken. -/
theorem fetch_cons {s : State} {t : Turn} {rest : List Turn} (h : s.schedule = t :: rest) :
    fetch s = fetchTurn t (s.setSchedule rest) := by
  simp [fetch, h]

/-- A step of a machine with a legal CFG. -/
theorem step_legal {s : State} (h : s.cfg.Legal) : step s = runFetched (fetch s) := by
  simp only [step, if_pos h]

end Sys2Proof.Machine
end

