-- ==== Sys2Proof/Laws/PerInstr.lean ====
section
/-! SUPPORT. The statements made per instruction: every instruction is encoded in the format its row of
spec/opcode_table.json names. -/

namespace Sys2Proof.Laws

/-- The formats of the table. -/
inductive Format where
  | cmd
  | ra
  | pduFc
deriving DecidableEq, Repr

/-- The format of an instruction's row. -/
def formatOf : Instr → Format
  | .crc16 _ | .validate _ | .decodeRtu _ | .decodeTcp _ | .getAddress _ | .getFunction _ | .getPayload _
  | .setPayload _ _ | .setException _ _ | .copyAsResponse _ | .toBytes _ => .cmd
  | .raShutdown _ | .raIdleDrain _ | .raIdleAdvance _ | .raSilAppend _ | .raSilWait _ | .raSilBoundary _
  | .raFixAppend _ | .raFixWait _ | .raFixAbort _ | .raReadyError _ | .raReadyInvalid _ | .raReadyEmit _
  | .raReadyBcastDrop _ => .ra
  | .fc01ReadCoils _ | .fc02ReadDiscreteInputs _ | .fc03ReadHoldingRegisters _ | .fc04ReadInputRegisters _
  | .fc05WriteSingleCoil _ | .fc06WriteHoldingRegister _ | .fc0FWriteMultipleCoils _
  | .fc10WriteMultipleHoldingRegisters _ | .fcException _ _ | .fcOther _ _ => .pduFc

/-- The format of a code. -/
def codeFormat : Code → Format
  | .command _ => .cmd
  | .pdu _ => .pduFc
  | .select _ _ => .ra

namespace EncodesInItsFormat

/-- The encoder writes an instruction in its row's format. -/
def Statement (i : Instr) : Prop := codeFormat (encode i) = formatOf i

theorem crc16 (b : Bytes) : Statement (.crc16 b) := rfl
theorem validate (f : Bytes) : Statement (.validate f) := rfl
theorem decodeRtu (b : Bytes) : Statement (.decodeRtu b) := rfl
theorem decodeTcp (b : Bytes) : Statement (.decodeTcp b) := rfl
theorem getAddress (f : Frame) : Statement (.getAddress f) := rfl
theorem getFunction (f : Frame) : Statement (.getFunction f) := rfl
theorem getPayload (f : Frame) : Statement (.getPayload f) := rfl
theorem setPayload (f : Frame) (payload : Bytes) : Statement (.setPayload f payload) := rfl
theorem setException (f : Frame) (e : Byte) : Statement (.setException f e) := rfl
theorem copyAsResponse (f : Frame) : Statement (.copyAsResponse f) := rfl
theorem toBytes (f : Frame) : Statement (.toBytes f) := rfl
theorem raShutdown (p : Nat) : Statement (.raShutdown p) := rfl
theorem raIdleDrain (p : Nat) : Statement (.raIdleDrain p) := rfl
theorem raIdleAdvance (p : Nat) : Statement (.raIdleAdvance p) := rfl
theorem raSilAppend (p : Nat) : Statement (.raSilAppend p) := rfl
theorem raSilWait (p : Nat) : Statement (.raSilWait p) := rfl
theorem raSilBoundary (p : Nat) : Statement (.raSilBoundary p) := rfl
theorem raFixAppend (p : Nat) : Statement (.raFixAppend p) := rfl
theorem raFixWait (p : Nat) : Statement (.raFixWait p) := rfl
theorem raFixAbort (p : Nat) : Statement (.raFixAbort p) := rfl
theorem raReadyError (p : Nat) : Statement (.raReadyError p) := rfl
theorem raReadyInvalid (p : Nat) : Statement (.raReadyInvalid p) := rfl
theorem raReadyEmit (p : Nat) : Statement (.raReadyEmit p) := rfl
theorem raReadyBcastDrop (p : Nat) : Statement (.raReadyBcastDrop p) := rfl
theorem fc01ReadCoils (payload : Bytes) : Statement (.fc01ReadCoils payload) := rfl
theorem fc02ReadDiscreteInputs (payload : Bytes) : Statement (.fc02ReadDiscreteInputs payload) := rfl
theorem fc03ReadHoldingRegisters (payload : Bytes) : Statement (.fc03ReadHoldingRegisters payload) := rfl
theorem fc04ReadInputRegisters (payload : Bytes) : Statement (.fc04ReadInputRegisters payload) := rfl
theorem fc05WriteSingleCoil (payload : Bytes) : Statement (.fc05WriteSingleCoil payload) := rfl
theorem fc06WriteHoldingRegister (payload : Bytes) : Statement (.fc06WriteHoldingRegister payload) := rfl
theorem fc0FWriteMultipleCoils (payload : Bytes) : Statement (.fc0FWriteMultipleCoils payload) := rfl
theorem fc10WriteMultipleHoldingRegisters (payload : Bytes) : Statement (.fc10WriteMultipleHoldingRegisters payload) := rfl
theorem fcException (function : Byte) (payload : Bytes) : Statement (.fcException function payload) := rfl
theorem fcOther (function : Byte) (payload : Bytes) : Statement (.fcOther function payload) := rfl

end EncodesInItsFormat

end Sys2Proof.Laws
end

