-- ==== Sys2Proof/Tests/Slice0.lean ====
section
/-! SUPPORT. The model's own tests. Expected values are those of spec/95_test_vectors.md (named by their ids) or are
written out from the encoding tables of spec/30_encoding.md. The last part gives, for every obligation with hypotheses,
a theorem witness_<Name> that meets them all. -/

namespace Sys2Proof.Tests

open Sys2Proof Sys2Proof.Machine

/-! ### Helpers -/

/-- The test vectors' default CFG with another framing policy. -/
def fixedCfg : Cfg := { Config.straps with framing := .fixedPrefix }

/-- The default CFG with `broadcast = DROP`. -/
def dropCfg : Cfg := { Config.straps with broadcast := .drop }

/-- A CFG with two ports. -/
def twoCfg : Cfg := { Config.straps with numPorts := 2, portIds := [7, 9] }

def idle : ListenState := ListenState.reset
def acc (packet : Bytes) (expected : Nat) : ListenState := ⟨.accumulating, packet, expected, false⟩
def ready (packet : Bytes) (expected : Nat) (error : Bool) : ListenState := ⟨.ready, packet, expected, error⟩

def portWith (ls : ListenState) (tape : List Arrival) : Port := ⟨.running, ls, ⟨tape, 0⟩⟩

/-- A machine of one port, with a sink that answers as listed and this port's turn next. -/
def machine (c : Cfg) (ls : ListenState) (tape : List Arrival) (answers : List Bool) : State :=
  { State.resetWith c with
    ports := [portWith ls tape], sink := ⟨answers, 0, []⟩, schedule := [.port 0] }

def resultOf : Answer → Option CmdResult
  | .next s => s.result
  | _ => none

def lsOf : Answer → Option ListenState
  | .next s => s.ports[0]?.map Port.ls
  | _ => none

def runOf : Answer → Option RunState
  | .next s => s.ports[0]?.map Port.run
  | _ => none

def tapeOf : Answer → Option (List Arrival)
  | .next s => s.ports[0]?.map fun q => q.stream.tape
  | _ => none

def acceptedOf : Answer → Option (List Request)
  | .next s => some s.sink.accepted
  | _ => none

def refusalOf : Answer → Option Refusal
  | .refused r => some r
  | _ => none

def decoded (c : Code) : Option Instr := (decode c).toOption

def errorOf (c : Code) : Option DecodeError :=
  match decode c with
  | .ok _ => none
  | .error e => some e

/-- Request 01 03 00 05 00 01 94 0B (CRC-12). -/
def readBytesFrame : Bytes := [0x01, 0x03, 0x00, 0x05, 0x00, 0x01, 0x94, 0x0B]
def readFrameValue : RtuFrame := ⟨0x01, 0x03, [0x00, 0x05, 0x00, 0x01], 0x0B94⟩

/-- The frame of TCP-4. -/
def tcpFrameValue : TcpFrame := ⟨0x0001, 0x0000, 0x01, 0x03, [0x00, 0x00, 0x00, 0x0A]⟩
def tcpFrameBytes : Bytes := [0x00, 0x01, 0x00, 0x00, 0x00, 0x06, 0x01, 0x03, 0x00, 0x00, 0x00, 0x0A]

/-- The exception response 01 83 02 C0 F1 (RTU-10). -/
def exceptionFrame : RtuFrame := ⟨0x01, 0x83, [0x02], 0xF1C0⟩

/-- The broadcast 00 06 00 01 00 03 99 DA (RTU-9). -/
def broadcastBytes : Bytes := [0x00, 0x06, 0x00, 0x01, 0x00, 0x03, 0x99, 0xDA]
def broadcastFrame : RtuFrame := ⟨0x00, 0x06, [0x00, 0x01, 0x00, 0x03], 0xDA99⟩

/-- The first 8 bytes of the FC16 frame of CRC-15. -/
def multiPrefix : Bytes := [0x01, 0x10, 0x00, 0x01, 0x00, 0x02, 0x04, 0x00]

/-- A frame whose crc field is not its CRC. -/
def badFrame : Frame := .rtu ⟨0x01, 0x03, [], 0x0000⟩

/-! ### WellFormed refuses an ill-formed term of each check -/

theorem test_wf_getAddress : (Instr.getAddress badFrame).wellFormed = false := by decide +kernel
theorem test_wf_getFunction : (Instr.getFunction badFrame).wellFormed = false := by decide +kernel
theorem test_wf_getPayload : (Instr.getPayload badFrame).wellFormed = false := by decide +kernel
theorem test_wf_setPayload : (Instr.setPayload badFrame [0x02]).wellFormed = false := by decide +kernel
theorem test_wf_setException : (Instr.setException badFrame 0x02).wellFormed = false := by decide +kernel
theorem test_wf_copyAsResponse : (Instr.copyAsResponse badFrame).wellFormed = false := by decide +kernel
theorem test_wf_toBytes : (Instr.toBytes badFrame).wellFormed = false := by decide +kernel
theorem test_wf_fcException_without_bit7 : (Instr.fcException 0x03 [0x02]).wellFormed = false := by decide
theorem test_wf_fcOther_with_bit7 : (Instr.fcOther 0x83 []).wellFormed = false := by decide
theorem test_wf_fcOther_with_a_listed_code : (Instr.fcOther 0x10 []).wellFormed = false := by decide
theorem test_wf_good_frame : (Instr.toBytes (.rtu readFrameValue)).wellFormed = true := by decide +kernel

/-! ### Every constructor's decoding, from words written out from R85, R86 and R74 -/

theorem test_decode_crc16 : decoded (.command [0x01, 1, 0x80, 1, 0x00, 0]) = some (.crc16 [0x80, 0x00]) := by decide
theorem test_decode_validate : decoded (.command [0x02, 1, 0xFF, 0]) = some (.validate [0xFF]) := by decide
theorem test_decode_decodeRtu : decoded (.command [0x10, 1, 0x01, 0]) = some (.decodeRtu [0x01]) := by decide
theorem test_decode_decodeTcp : decoded (.command [0x11, 1, 0x12, 0]) = some (.decodeTcp [0x12]) := by decide
theorem test_decode_getAddress : decoded (.command [0x20, 0, 0x01, 0x83, 1, 0x02, 0]) =
    some (.getAddress (.rtu exceptionFrame)) := by decide +kernel
theorem test_decode_getFunction : decoded (.command [0x21, 1, 0x12, 0x34, 0x00, 0x01, 0xFF, 0x2B, 0]) =
    some (.getFunction (.tcp ⟨0x1234, 0x0001, 0xFF, 0x2B, []⟩)) := by decide
theorem test_decode_getPayload : decoded (.command [0x22, 1, 0x12, 0x34, 0x00, 0x01, 0xFF, 0x2B, 1, 0x05, 0]) =
    some (.getPayload (.tcp ⟨0x1234, 0x0001, 0xFF, 0x2B, [0x05]⟩)) := by decide
theorem test_decode_setPayload : decoded (.command [0x28, 0, 0x01, 0x83, 1, 0x02, 0, 1, 0x0A, 1, 0x0B, 0]) =
    some (.setPayload (.rtu exceptionFrame) [0x0A, 0x0B]) := by decide +kernel
theorem test_decode_setException : decoded (.command [0x29, 0, 0x01, 0x83, 1, 0x02, 0, 0x0B]) =
    some (.setException (.rtu exceptionFrame) 0x0B) := by decide +kernel
theorem test_decode_copyAsResponse : decoded (.command [0x2A, 0, 0x01, 0x83, 1, 0x02, 0]) =
    some (.copyAsResponse (.rtu exceptionFrame)) := by decide +kernel
theorem test_decode_toBytes : decoded (.command [0x30, 0, 0x01, 0x83, 1, 0x02, 0]) =
    some (.toBytes (.rtu exceptionFrame)) := by decide +kernel
theorem test_decode_raShutdown : decoded (.select ⟨.ready, .shutdown, .silence, .drop, false, true, .broadcast⟩ 2) =
    some (.raShutdown 2) := by decide
theorem test_decode_raIdleDrain : decoded (.select ⟨.idle, .data, .silence, .drop, true, false, .frameError⟩ 2) =
    some (.raIdleDrain 2) := by decide
theorem test_decode_raIdleAdvance : decoded (.select ⟨.idle, .empty, .silence, .drop, true, false, .frameError⟩ 2) =
    some (.raIdleAdvance 2) := by decide
theorem test_decode_raSilAppend :
    decoded (.select ⟨.accumulating, .data, .silence, .drop, false, true, .broadcast⟩ 2) = some (.raSilAppend 2) := by
  decide
theorem test_decode_raSilWait :
    decoded (.select ⟨.accumulating, .empty, .silence, .drop, true, true, .broadcast⟩ 2) = some (.raSilWait 2) := by
  decide
theorem test_decode_raSilBoundary :
    decoded (.select ⟨.accumulating, .empty, .silence, .drop, false, true, .broadcast⟩ 2) =
      some (.raSilBoundary 2) := by decide
theorem test_decode_raFixAppend :
    decoded (.select ⟨.accumulating, .data, .fixedPrefix, .drop, false, true, .broadcast⟩ 2) =
      some (.raFixAppend 2) := by decide
theorem test_decode_raFixWait :
    decoded (.select ⟨.accumulating, .empty, .fixedPrefix, .drop, true, true, .broadcast⟩ 2) =
      some (.raFixWait 2) := by decide
theorem test_decode_raFixAbort :
    decoded (.select ⟨.accumulating, .empty, .fixedPrefix, .drop, false, true, .broadcast⟩ 2) =
      some (.raFixAbort 2) := by decide
theorem test_decode_raReadyError : decoded (.select ⟨.ready, .none, .silence, .drop, false, true, .broadcast⟩ 2) =
    some (.raReadyError 2) := by decide
theorem test_decode_raReadyInvalid :
    decoded (.select ⟨.ready, .none, .silence, .drop, false, false, .frameError⟩ 2) = some (.raReadyInvalid 2) := by
  decide
theorem test_decode_raReadyEmit : decoded (.select ⟨.ready, .none, .silence, .emit, false, false, .broadcast⟩ 2) =
    some (.raReadyEmit 2) := by decide
theorem test_decode_raReadyBcastDrop :
    decoded (.select ⟨.ready, .none, .silence, .drop, false, false, .broadcast⟩ 2) = some (.raReadyBcastDrop 2) := by
  decide
theorem test_decode_fc01 : decoded (.pdu [0x01, 0x00, 0x13]) = some (.fc01ReadCoils [0x00, 0x13]) := by decide
theorem test_decode_fc02 : decoded (.pdu [0x02, 0x00]) = some (.fc02ReadDiscreteInputs [0x00]) := by decide
theorem test_decode_fc03 : decoded (.pdu [0x03, 0x6B]) = some (.fc03ReadHoldingRegisters [0x6B]) := by decide
theorem test_decode_fc04 : decoded (.pdu [0x04, 0x05]) = some (.fc04ReadInputRegisters [0x05]) := by decide
theorem test_decode_fc05 : decoded (.pdu [0x05, 0xAC]) = some (.fc05WriteSingleCoil [0xAC]) := by decide
theorem test_decode_fc06 : decoded (.pdu [0x06, 0x2A]) = some (.fc06WriteHoldingRegister [0x2A]) := by decide
theorem test_decode_fc0F : decoded (.pdu [0x0F, 0xCD]) = some (.fc0FWriteMultipleCoils [0xCD]) := by decide
theorem test_decode_fc10 : decoded (.pdu [0x10, 0x04]) = some (.fc10WriteMultipleHoldingRegisters [0x04]) := by decide
theorem test_decode_fcException : decoded (.pdu [0x80, 0x01]) = some (.fcException 0x80 [0x01]) := by decide
theorem test_decode_fcOther_low : decoded (.pdu [0x00]) = some (.fcOther 0x00 []) := by decide
theorem test_decode_fcOther_high : decoded (.pdu [0x7F]) = some (.fcOther 0x7F []) := by decide

theorem test_refuse_no_code : errorOf (.command []) = some .noCode := by decide
theorem test_refuse_unassigned : errorOf (.command [0x03, 0]) = some (.unassigned 0x03) := by decide
theorem test_refuse_truncated : errorOf (.command [0x01, 1, 0xFF]) = some .truncated := by decide
theorem test_refuse_marker : errorOf (.command [0x01, 2]) = some (.badMarker 2) := by decide
theorem test_refuse_variant : errorOf (.command [0x20, 2, 0x01, 0x03, 0]) = some (.badVariant 2) := by decide
theorem test_refuse_trailing : errorOf (.command [0x01, 0, 0]) = some .trailing := by decide
theorem test_refuse_empty_pdu : errorOf (.pdu []) = some .emptyPdu := by decide
theorem test_refuse_no_such_step :
    errorOf (.select ⟨.ready, .data, .silence, .emit, false, false, .addressed⟩ 0) = some .noSuchStep := by decide

/-! ### The table's words and the step -/

theorem test_word_crc16 : decodeTableWord 8 0x01 = some (.crc16 []) := by decide
theorem test_word_setException :
    decodeTableWord 8 0x29 = some (.setException (.rtu ⟨0, 0, [], bodyCrc 0 0 []⟩) 0) := by decide +kernel
theorem test_word_fc0F : decodeTableWord 8 0x0F = some (.fc0FWriteMultipleCoils [0, 0, 0, 0, 0]) := by decide
theorem test_word_fcException : decodeTableWord 8 0x80 = some (.fcException 0x80 [0]) := by decide
theorem test_step_runs_a_word :
    resultOf (step (State.reset.withFetchWord 8 0x01)) = some (.word 0xFFFF) := by decide +kernel
theorem test_step_unassigned : refusalOf (step { State.reset with schedule := [.command [0x7F]] }) =
    some (.badCode (.unassigned 0x7F)) := by decide
theorem test_step_port : lsOf (step (machine Config.straps idle [.error] [])) = some (acc [] 0) := by decide
theorem test_reset_turn_restarts_a_stopped_port :
    runOf (step { State.reset with
      ports := [{ Port.reset with run := .stopped }], shutdown := true, schedule := [.reset fixedCfg] }) =
      some .running := by decide

/-- Log entry 34: a port that one reset takes away and a later one brings back still has its waiting bytes. -/
theorem test_reset_keeps_a_removed_ports_bytes :
    (applyReset Config.straps (applyReset { Config.straps with numPorts := 0, portIds := [] }
      (machine Config.straps (acc [0x01] 0) [.bytes [0x02]] []))).ports = [portWith idle [.bytes [0x02]]] := by decide

/-! ### The CRC unit -/

/-- CRC-4. -/
theorem test_crc16_check_value : resultOf (exec (.crc16
    [0x31, 0x32, 0x33, 0x34, 0x35, 0x36, 0x37, 0x38, 0x39]) State.reset) = some (.word 0x4B37) := by decide +kernel
/-- CRC-7. -/
theorem test_crc16_request : resultOf (exec (.crc16 [0x01, 0x03, 0x00, 0x00, 0x00, 0x0A]) State.reset) =
    some (.word 0xCDC5) := by decide +kernel
/-- VAL-6 and VAL-3. -/
theorem test_validate_good : resultOf (exec (.validate [0x01, 0x03, 0x00, 0x00, 0x00, 0x0A, 0xC5, 0xCD])
    State.reset) = some (.bool true) ∧ resultOf (exec (.validate [0xFF, 0xFF]) State.reset) = some (.bool true) := by
  decide +kernel
/-- VAL-7 and VAL-2. -/
theorem test_validate_bad : resultOf (exec (.validate [0x01, 0x03, 0x00, 0x00, 0x00, 0x0A, 0xCD, 0xC5])
    State.reset) = some (.bool false) ∧ resultOf (exec (.validate [0x00]) State.reset) = some (.bool false) := by
  decide +kernel

/-! ### The codec -/

/-- RTU-10. -/
theorem test_decodeRtu_frame : resultOf (exec (.decodeRtu [0x01, 0x83, 0x02, 0xC0, 0xF1]) State.reset) =
    some (.frame (.rtu exceptionFrame)) := by decide +kernel
/-- RTU-4 and RTU-6. -/
theorem test_decodeRtu_errors : resultOf (exec (.decodeRtu [0xFF, 0xFF, 0xFF]) State.reset) =
    some (.frameError .tooShort) ∧ resultOf (exec (.decodeRtu [0x01, 0x03, 0x40, 0x22]) State.reset) =
    some (.frameError .badCrc) := by decide +kernel
/-- TCP-8. -/
theorem test_decodeTcp_frame : resultOf (exec (.decodeTcp [0x12, 0x34, 0x00, 0x01, 0x00, 0x02, 0xFF, 0x2B])
    State.reset) = some (.frame (.tcp ⟨0x1234, 0x0001, 0xFF, 0x2B, []⟩)) := by decide
/-- TCP-2 and TCP-6. -/
theorem test_decodeTcp_errors : resultOf (exec (.decodeTcp [0x00, 0x01, 0x00, 0x00, 0x00, 0x01, 0x01]) State.reset) =
    some (.frameError .tooShort) ∧ resultOf (exec (.decodeTcp [0x00, 0x01, 0x00, 0x00, 0x00, 0x05, 0x01, 0x03, 0x00,
    0x00, 0x00, 0x0A]) State.reset) = some (.frameError .lengthMismatch) := by decide
/-- OPS-1. -/
theorem test_getAddress_rtu :
    resultOf (exec (.getAddress (.rtu readFrameValue)) State.reset) = some (.byte 0x01) := by decide
/-- OPS-2. -/
theorem test_getAddress_tcp : resultOf (exec (.getAddress (.tcp ⟨0x0001, 0x0000, 0x11, 0x03, [0x00]⟩)) State.reset) =
    some (.byte 0x11) := by decide
/-- OPS-3. -/
theorem test_getFunction : resultOf (exec (.getFunction (.rtu exceptionFrame)) State.reset) = some (.byte 0x83) := by
  decide
/-- OPS-4. -/
theorem test_getPayload : resultOf (exec (.getPayload (.rtu readFrameValue)) State.reset) =
    some (.bytes [0x00, 0x05, 0x00, 0x01]) := by decide
/-- P1: SET_PAYLOAD recomputes the crc. -/
theorem test_setPayload_rtu : resultOf (exec (.setPayload (.rtu readFrameValue) [0x02, 0x00, 0x2A]) State.reset) =
    some (.frame (.rtu ⟨0x01, 0x03, [0x02, 0x00, 0x2A], 0x9B39⟩)) := by decide +kernel
/-- OPS-15's frame. -/
theorem test_setPayload_tcp : resultOf (exec (.setPayload (.tcp tcpFrameValue) []) State.reset) =
    some (.frame (.tcp ⟨0x0001, 0x0000, 0x01, 0x03, []⟩)) := by decide
/-- OPS-7's frame, and OPS-10: the bit stays set. -/
theorem test_setException : resultOf (exec (.setException (.rtu readFrameValue) 0x02) State.reset) =
    some (.frame (.rtu exceptionFrame)) ∧ resultOf (exec (.setException (.rtu exceptionFrame) 0x03) State.reset) =
    some (.frame (.rtu ⟨0x01, 0x83, [0x03], 0x3101⟩)) := by decide +kernel
/-- OPS-8. -/
theorem test_setException_refuses_0 : refusalOf (exec (.setException (.rtu readFrameValue) 0x00) State.reset) =
    some .successIsNotAnException := by decide
/-- OPS-13's frame. -/
theorem test_copyAsResponse : resultOf (exec (.copyAsResponse (.rtu readFrameValue)) State.reset) =
    some (.frame (.rtu readFrameValue)) := by decide
/-- OPS-7: the crc field is not read. -/
theorem test_toBytes_rtu : resultOf (exec (.toBytes (.rtu ⟨0x01, 0x83, [0x02], 0x0000⟩)) State.reset) =
    some (.bytes [0x01, 0x83, 0x02, 0xC0, 0xF1]) := by decide +kernel
/-- OPS-16. -/
theorem test_toBytes_tcp : resultOf (exec (.toBytes (.tcp ⟨0x1234, 0x0001, 0xFF, 0xAB, [0x01]⟩)) State.reset) =
    some (.bytes [0x12, 0x34, 0x00, 0x01, 0x00, 0x03, 0xFF, 0xAB, 0x01]) := by decide

/-! ### The reassembler -/

/-- RA-20. -/
theorem test_raShutdown : runOf (exec (.raShutdown 0) { machine Config.straps (acc [0x01] 0) [] [] with
    shutdown := true }) = some .stopped := by decide
/-- RA-1. -/
theorem test_raIdleDrain : lsOf (exec (.raIdleDrain 0) (machine Config.straps idle [.bytes [0x7A, 0x7B]] [])) =
    some idle := by decide
/-- RA-2 and RA-3, and the FIXED_PREFIX start of P3. -/
theorem test_raIdleAdvance : lsOf (exec (.raIdleAdvance 0) (machine Config.straps idle [.silence] [])) =
    some (acc [] 0) ∧ lsOf (exec (.raIdleAdvance 0) (machine fixedCfg idle [.error] [])) = some (acc [] 8) := by
  decide
/-- RA-5. -/
theorem test_raSilAppend : lsOf (exec (.raSilAppend 0) (machine Config.straps (acc [0x01, 0x03] 0)
    [.bytes [0x00, 0x05]] [])) = some (acc [0x01, 0x03, 0x00, 0x05] 0) := by decide
/-- RA-8: overflow with max_frame 8. -/
theorem test_raSilAppend_overflow : lsOf (exec (.raSilAppend 0) (machine { Config.straps with maxFrame := 8 }
    (acc [1, 2, 3, 4, 5, 6] 0) [.bytes [7, 8, 9, 10, 11, 12, 13]] [])) =
    some ⟨.accumulating, [1, 2, 3, 4, 5, 6, 7, 8], 0, true⟩ := by decide
/-- RA-4. -/
theorem test_raSilWait : lsOf (exec (.raSilWait 0) (machine Config.straps (acc [] 0) [.silence] [])) =
    some (acc [] 0) := by decide
/-- RA-6. -/
theorem test_raSilBoundary : lsOf (exec (.raSilBoundary 0) (machine Config.straps (acc [0x01] 0) [.silence] [])) =
    some (ready [0x01] 0 false) := by decide
/-- RA-14. -/
theorem test_raFixAppend_sizes : lsOf (exec (.raFixAppend 0) (machine fixedCfg (acc [] 8) [.bytes multiPrefix] [])) =
    some (acc multiPrefix 5) := by decide
/-- The read of R185 is bounded by `expected`: the next frame's bytes stay in the stream. -/
theorem test_raFixAppend_bound : tapeOf (exec (.raFixAppend 0) (machine fixedCfg (acc [0x01, 0x06, 0x00, 0x05] 4)
    [.bytes [0x00, 0x2A, 0x18, 0x14, 0x01]] [])) = some [.bytes [0x01]] := by decide
/-- RA-17. -/
theorem test_raFixWait : lsOf (exec (.raFixWait 0) (machine fixedCfg (acc [] 8) [.silence] [])) =
    some (acc [] 8) := by decide
/-- RA-16. -/
theorem test_raFixAbort : lsOf (exec (.raFixAbort 0) (machine fixedCfg (acc [0x01, 0x03, 0x00] 5) [.silence] [])) =
    some (ready [0x01, 0x03, 0x00] 5 true) := by decide
/-- RA-9. -/
theorem test_raReadyError : lsOf (exec (.raReadyError 0) (machine Config.straps (ready readBytesFrame 0 true) []
    [true])) = some idle := by decide +kernel
/-- RA-7. -/
theorem test_raReadyInvalid : lsOf (exec (.raReadyInvalid 0) (machine Config.straps (ready [0x01] 0 false) [] [])) =
    some idle := by decide
/-- RA-13. -/
theorem test_raReadyEmit : acceptedOf (exec (.raReadyEmit 0) (machine Config.straps (ready broadcastBytes 0 false) []
    [true])) = some [⟨0, broadcastFrame⟩] := by decide +kernel
/-- RA-11: the sink does not accept. -/
theorem test_raReadyEmit_holds : lsOf (exec (.raReadyEmit 0) (machine Config.straps (ready broadcastBytes 0 false) []
    [false])) = some (ready broadcastBytes 0 false) := by decide +kernel
/-- RA-12. -/
theorem test_raReadyBcastDrop : lsOf (exec (.raReadyBcastDrop 0) (machine dropCfg (ready broadcastBytes 0 false) []
    [true])) = some idle := by decide +kernel

/-! ### The function codes (R74 to R76, R187; the frames of section 2.1) -/

def viewOf (i : Instr) : Option PduView :=
  match exec i State.reset with
  | .next s => match s.result with
    | some (.pdu v) => some v
    | _ => none
  | _ => none

/-- CRC-8's PDU. -/
theorem test_fc01 : (viewOf (.fc01ReadCoils [0x00, 0x13, 0x00, 0x25])).map PduView.request =
    some (some (.read 0x0013 0x0025)) := by decide
theorem test_fc02 : (viewOf (.fc02ReadDiscreteInputs [0x01, 0x05])).map PduView.response =
    some (some (.coils 0x01 [0x05] [true, false, true, false, false, false, false, false])) := by decide
/-- E2E-2. -/
theorem test_fc03 : (viewOf (.fc03ReadHoldingRegisters [0x02, 0x00, 0x2A])).map PduView.response =
    some (some (.registers 0x02 [0x002A])) := by decide
/-- An odd byteCount holds no words (R76: N = 2 × count). -/
theorem test_fc03_odd : (viewOf (.fc03ReadHoldingRegisters [0x01, 0xAA])).map PduView.response = some none := by decide
/-- E2E-3. -/
theorem test_fc04 : (viewOf (.fc04ReadInputRegisters [0x00, 0x05, 0x00, 0x01])).map PduView.frameLen =
    some (some 8) := by decide
/-- CRC-17's PDU. -/
theorem test_fc05 : (viewOf (.fc05WriteSingleCoil [0x00, 0xAC, 0xFF, 0x00])).map PduView.request =
    some (some (.write 0x00AC 0xFF00)) := by decide
/-- E2E-1. -/
theorem test_fc06 : (viewOf (.fc06WriteHoldingRegister [0x00, 0x05, 0x00, 0x2A])).map PduView.echo =
    some (some [0x00, 0x05, 0x00, 0x2A]) := by decide
/-- OPS-18 and frameLen 11. -/
theorem test_fc0F : (viewOf (.fc0FWriteMultipleCoils [0x00, 0x13, 0x00, 0x0A, 0x02, 0xCD, 0x01])).map
    (fun v => (v.echo, v.frameLen)) = some (some [0x00, 0x13, 0x00, 0x0A], some 11) := by decide
/-- The ten coils of CRC-16's PDU, in the packing of R76. -/
theorem test_fc0F_coils : (viewOf (.fc0FWriteMultipleCoils [0x00, 0x13, 0x00, 0x0A, 0x02, 0xCD, 0x01])).map
    PduView.request = some (some (.writeCoils 0x0013 0x000A 0x02 [0xCD, 0x01]
      (some [true, false, true, true, false, false, true, true, true, false]))) := by decide +kernel
/-- OPS-17 and frameLen 13. -/
theorem test_fc10 : (viewOf (.fc10WriteMultipleHoldingRegisters
    [0x00, 0x01, 0x00, 0x02, 0x04, 0x00, 0x0A, 0x01, 0x02])).map (fun v => (v.request, v.frameLen)) =
    some (some (.writeRegisters 0x0001 0x0002 0x04 [0x00, 0x0A, 0x01, 0x02] (some [0x000A, 0x0102])), some 13) := by
  decide
theorem test_fcException : (viewOf (.fcException 0x83 [0x02])).map PduView.exceptionCode = some (some 0x02) := by
  decide
theorem test_fcOther : (viewOf (.fcOther 0x2B [0x0E, 0x01])).map (fun v => (v.request, v.frameLen)) =
    some (none, some 8) := by decide

/-! ### Witnesses: the hypotheses of each obligation hold together -/

/-- An answer that is this next state, told by evaluation. -/
def nextIs (a : Answer) (t : State) : Bool :=
  match a with
  | .next s => decide (s = t)
  | _ => false

theorem eq_next {a : Answer} {t : State} (h : nextIs a t = true) : a = .next t := by
  unfold nextIs at h
  split at h
  · rw [of_decide_eq_true h]
  · cases h

/-- O3, at the lengths 0 and 1. -/
theorem witness_ValidateComparesTheTrailingPair : ([] : Bytes).length < 2 ∧ [0xFF#8].length < 2 := by decide

/-- O4, at the length 2: the two sides are both true, and both false. -/
theorem witness_CrcResidueIsZero : 2 ≤ ([0xFF, 0xFF] : Bytes).length ∧ validate [0xFF, 0xFF] = true ∧
    2 ≤ ([0xBF, 0x40] : Bytes).length ∧ validate [0xBF, 0x40] = false := by decide +kernel

/-- O5, at the first and the last bit. -/
theorem witness_SingleBitErrorIsDetected : validate readBytesFrame = true ∧ 0 < 8 * readBytesFrame.length ∧
    63 < 8 * readBytesFrame.length := by decide +kernel

/-- O6, a string for each clause, at the lengths 3 and 4. -/
theorem witness_DecodeRtuOutcomes : ([0xFF, 0xFF, 0xFF] : Bytes).length < 4 ∧
    4 ≤ ([0x01, 0x03, 0x40, 0x22] : Bytes).length ∧ validate [0x01, 0x03, 0x40, 0x22] = false ∧
    validate (0x01 :: 0x03 :: ([] : Bytes) ++ [0x40, 0x21]) = true := by decide +kernel

/-- O8. -/
theorem witness_RtuRoundTrip : (∃ s', exec (.decodeRtu readBytesFrame) State.reset = .next s' ∧
    s'.result = some (.frame (.rtu readFrameValue))) ∧ readFrameValue.wellFormed = true :=
  ⟨⟨State.reset.setResult (.frame (.rtu readFrameValue)), eq_next (by decide +kernel), rfl⟩, by decide +kernel⟩

/-- O9, at the first and the last bit of the shortest frame. -/
theorem witness_CrcRoundTripProperty :
    0 < 8 * (0x01#8 :: 0x03#8 :: ([] : Bytes) ++ le16 (crc16 [0x01, 0x03])).length ∧
    31 < 8 * (0x01#8 :: 0x03#8 :: ([] : Bytes) ++ le16 (crc16 [0x01, 0x03])).length := by decide

/-- O10, at the length 7; both branches of the second clause occur in `test_decodeTcp_frame` and
`test_decodeTcp_errors`. -/
theorem witness_DecodeTcpOutcomes :
    ([0x00, 0x01, 0x00, 0x00, 0x00, 0x01, 0x01] : Bytes).length < 8 := by decide

/-- O11, at 65533 and 65534 payload bytes. -/
theorem witness_ToBytesTcpRecomputesTheLength : (List.replicate 65533 0x00#8).length ≤ 65533 ∧
    65533 < (List.replicate 65534 0x00#8).length :=
  ⟨Nat.le_of_eq (List.length_replicate ..), Nat.lt_of_lt_of_eq (Nat.lt_succ_self _) (List.length_replicate ..).symm⟩

/-- O12. -/
theorem witness_TcpRoundTrip : (∃ s', exec (.decodeTcp tcpFrameBytes) State.reset = .next s' ∧
    s'.result = some (.frame (.tcp tcpFrameValue))) ∧ (List.replicate 65533 0x00#8).length ≤ 65533 :=
  ⟨⟨_, rfl, by decide⟩, Nat.le_of_eq (List.length_replicate ..)⟩

/-- O14. -/
theorem witness_SetPayloadReplacesOnlyThePayload :
    (Frame.rtu readFrameValue).wellFormed = true ∧ (Frame.tcp tcpFrameValue).wellFormed = true := by decide +kernel

/-- O15, at the codes 1 and 0xFF. -/
theorem witness_SetExceptionSetsTheBitAndCode : (0x01#8 : Byte) ≠ 0#8 ∧ (0xFF#8 : Byte) ≠ 0#8 := by decide

/-- O17. -/
theorem witness_ExceptionResponseWireForm : (0x02#8 : Byte) ≠ 0#8 := by decide

/-- O18. -/
theorem witness_AnsweredFramesKeepTheCrcInvariant : (Instr.setException (.rtu readFrameValue) 0x02).wellFormed = true ∧
    (∀ g, State.reset.result = some (.frame g) → g.wellFormed = true) ∧
    ∃ s', exec (.setException (.rtu readFrameValue) 0x02) State.reset = .next s' ∧
      s'.result = some (.frame (.rtu exceptionFrame)) :=
  ⟨by decide +kernel, (by intro g h; cases h),
    State.reset.setResult (.frame (.rtu exceptionFrame)), eq_next (by decide +kernel), rfl⟩

/-- O19, a command and a function-code form. -/
theorem witness_CodecOperationsArePure : (∀ key p, encode (.validate [0xFF]) ≠ .select key p) ∧
    (∃ s', exec (.validate [0xFF]) State.reset = .next s') ∧ (∀ key p, encode (.fcOther 0x07 []) ≠ .select key p) ∧
    ∃ s', exec (.fcOther 0x07 []) State.reset = .next s' :=
  ⟨(by intro _ _ h; cases h), ⟨_, rfl⟩, (by intro _ _ h; cases h), _, rfl⟩

/-- O20, at the codes 1 and 0xFF, and for the last named exception. -/
theorem witness_ResponseKeepsTheRequestsAddressing : (0x01#8 : Byte) ≠ 0#8 ∧ (0xFF#8 : Byte) ≠ 0#8 ∧
    exceptionCode .gatewayTargetDeviceFailedToRespond = 0x0B#8 := by decide

/-- O21, for each function code named. -/
theorem witness_ReadRequestForms : ∀ i : Fin 4, ([(Instr.fc01ReadCoils, 0x01#8),
    (Instr.fc02ReadDiscreteInputs, 0x02#8), (Instr.fc03ReadHoldingRegisters, 0x03#8),
    (Instr.fc04ReadInputRegisters, 0x04#8)] : List ((Bytes → Instr) × Byte))[i] ∈ ([(Instr.fc01ReadCoils, 0x01#8),
    (Instr.fc02ReadDiscreteInputs, 0x02#8), (Instr.fc03ReadHoldingRegisters, 0x03#8),
    (Instr.fc04ReadInputRegisters, 0x04#8)] : List ((Bytes → Instr) × Byte)) := fun i => List.getElem_mem i.isLt

/-- O22, for each function code named. -/
theorem witness_WriteSingleForms : (Instr.fc05WriteSingleCoil, 0x05#8) ∈ ([(Instr.fc05WriteSingleCoil, 0x05#8),
    (Instr.fc06WriteHoldingRegister, 0x06#8)] : List ((Bytes → Instr) × Byte)) ∧
    (Instr.fc06WriteHoldingRegister, 0x06#8) ∈ ([(Instr.fc05WriteSingleCoil, 0x05#8),
    (Instr.fc06WriteHoldingRegister, 0x06#8)] : List ((Bytes → Instr) × Byte)) := by simp

/-- O23, at 0 and 255 data bytes, and for data that hold coils and words. -/
theorem witness_WriteMultipleForms : ([] : Bytes).length < 256 ∧ (List.replicate 255 0x00#8).length < 256 ∧
    coilsOf 10 [0xCD, 0x01] = some [true, false, true, true, false, false, true, true, true, false] ∧
    beWords [0x00, 0x0A] = some [0x000A] := by decide +kernel

/-- O24, at the ends of each range of function bytes. -/
theorem witness_OtherFunctionBytesAreCarried :
    (∀ fn ∈ [0x80#8, 0xFF#8], fn.getLsbD 7 = true) ∧
    ∀ fn ∈ [0x00#8, 0x07#8, 0x0E#8, 0x11#8, 0x7F#8], fn.getLsbD 7 = false ∧
      fn ∉ [0x01#8, 0x02#8, 0x03#8, 0x04#8, 0x05#8, 0x06#8, 0x0F#8, 0x10#8] := by decide

/-- O25, at 0 and 255 data bytes (255 is odd), and at 0 and 127 words. -/
theorem witness_ResponseForms : ([] : Bytes).length < 256 ∧ (List.replicate 255 0x00#8).length < 256 ∧
    (List.replicate 255 0x00#8).length % 2 = 1 ∧ ([] : List U16).length < 128 ∧
    (List.replicate 127 0x0000#16).length < 128 ∧
    Instr.fc02ReadDiscreteInputs ∈ ([Instr.fc01ReadCoils, Instr.fc02ReadDiscreteInputs] : List (Bytes → Instr)) ∧
    Instr.fc04ReadInputRegisters ∈ ([Instr.fc03ReadHoldingRegisters, Instr.fc04ReadInputRegisters] :
      List (Bytes → Instr)) ∧
    Instr.fc0FWriteMultipleCoils ∈ ([Instr.fc0FWriteMultipleCoils, Instr.fc10WriteMultipleHoldingRegisters] :
      List (Bytes → Instr)) :=
  ⟨by decide, by decide +kernel, by decide +kernel, by decide, by decide +kernel, by simp, by simp, by simp⟩

/-- O26, for each layout of R75. -/
theorem witness_RequestLengthIsTheFixedPrefixLength :
    requestFields 0x03 readFrameValue.payload = some (.read 5 1) ∧
    requestFields 0x06 broadcastFrame.payload = some (.write 1 3) ∧
    requestFields 0x0F [0x00, 0x01, 0x00, 0x02, 0x01, 0x03] = some (.writeCoils 1 2 1 [3] (some [true, true])) ∧
    requestFields 0x10 [0x00, 0x01, 0x00, 0x02, 0x00] = some (.writeRegisters 1 2 0 [] (some [])) := by decide +kernel

/-- A machine with the SHUTDOWN input asserted and a turn of port 0. -/
def shutdownMachine : State := { machine fixedCfg (acc [0x01] 7) [] [] with shutdown := true }

/-- O27. -/
theorem witness_ShutdownStopsThePort : shutdownMachine.ports[0]? = some (portWith (acc [0x01] 7) []) ∧
    (portWith (acc [0x01] 7) []).run = .running ∧ shutdownMachine.shutdown = true ∧ shutdownMachine.cfg.Legal ∧
    shutdownMachine.schedule = .port 0 :: [] ∧
    { shutdownMachine with ports := [{ portWith (acc [0x01] 7) [] with run := .stopped }] }.ports[0]? =
      some { portWith (acc [0x01] 7) [] with run := .stopped } := by decide

def stoppedPort : Port := { portWith (acc [0x01] 0) [.silence] with run := .stopped }
def stoppedMachine : State := { machine Config.straps idle [] [] with ports := [stoppedPort] }

/-- O28. -/
theorem witness_StoppedPortTakesNoStep : stoppedMachine.cfg.Legal ∧ stoppedMachine.ports[0]? = some stoppedPort ∧
    stoppedPort.run = .stopped ∧ stoppedMachine.schedule = .port 0 :: [] := by decide

/-- O29, a state for each clause. -/
theorem witness_IdleDrainsOrStartsAnAttempt :
    (RunningIn (machine Config.straps idle [.bytes [0x7A]] []) 0 (portWith idle [.bytes [0x7A]]) .idle ∧
      portStepRead Config.straps 0 (portWith idle [.bytes [0x7A]]) = some (.data [0x7A], ⟨[], 0⟩)) ∧
    RunningIn (machine fixedCfg idle [.error] []) 0 (portWith idle [.error]) .idle ∧
      portStepRead fixedCfg 0 (portWith idle [.error]) = some (.empty, ⟨[], 0⟩) := by decide

def cfg8 : Cfg := { Config.straps with maxFrame := 8 }

/-- O30, with a packet one byte short of max_frame and two bytes read. -/
theorem witness_SilenceAppendIsBounded :
    RunningIn (machine cfg8 (acc [1, 2, 3, 4, 5, 6, 7] 0) [.bytes [8, 9]] []) 0
      (portWith (acc [1, 2, 3, 4, 5, 6, 7] 0) [.bytes [8, 9]]) .accumulating ∧
    cfg8.framing = .silence ∧ ([1, 2, 3, 4, 5, 6, 7] : Bytes).length ≤ cfg8.maxFrame ∧
    portStepRead cfg8 0 (portWith (acc [1, 2, 3, 4, 5, 6, 7] 0) [.bytes [8, 9]]) = some (.data [8, 9], ⟨[], 0⟩) := by
  decide

/-- O31, a state for each clause. -/
theorem witness_SilenceEmptyReadWaitsOrEndsTheFrame :
    (RunningIn (machine Config.straps (acc [] 0) [.silence] []) 0 (portWith (acc [] 0) [.silence]) .accumulating ∧
      Config.straps.framing = .silence ∧
      portStepRead Config.straps 0 (portWith (acc [] 0) [.silence]) = some (.empty, ⟨[], 0⟩)) ∧
    RunningIn (machine Config.straps (acc [1] 0) [.silence] []) 0 (portWith (acc [1] 0) [.silence]) .accumulating ∧
      portStepRead Config.straps 0 (portWith (acc [1] 0) [.silence]) = some (.empty, ⟨[], 0⟩) := by decide

/-- O32, for a read that completes the prefix of a 13-byte frame, and for one that completes the frame. -/
theorem witness_FixedAppendSizesTheFrame :
    (RunningIn (machine fixedCfg (acc [] 8) [.bytes multiPrefix] []) 0 (portWith (acc [] 8) [.bytes multiPrefix])
      .accumulating ∧ fixedCfg.framing = .fixedPrefix ∧
      portStepRead fixedCfg 0 (portWith (acc [] 8) [.bytes multiPrefix]) = some (.data multiPrefix, ⟨[], 0⟩)) ∧
    RunningIn (machine fixedCfg (acc (multiPrefix ++ [1, 2, 3, 4]) 1) [.bytes [5]] []) 0
      (portWith (acc (multiPrefix ++ [1, 2, 3, 4]) 1) [.bytes [5]]) .accumulating ∧
      portStepRead fixedCfg 0 (portWith (acc (multiPrefix ++ [1, 2, 3, 4]) 1) [.bytes [5]]) =
        some (.data [5], ⟨[], 0⟩) := by decide

/-- O33, a state for each clause. -/
theorem witness_FixedEmptyReadWaitsOrAborts :
    (RunningIn (machine fixedCfg (acc [] 8) [.silence] []) 0 (portWith (acc [] 8) [.silence]) .accumulating ∧
      fixedCfg.framing = .fixedPrefix ∧
      portStepRead fixedCfg 0 (portWith (acc [] 8) [.silence]) = some (.empty, ⟨[], 0⟩)) ∧
    RunningIn (machine fixedCfg (acc [1] 7) [.silence] []) 0 (portWith (acc [1] 7) [.silence]) .accumulating ∧
      portStepRead fixedCfg 0 (portWith (acc [1] 7) [.silence]) = some (.empty, ⟨[], 0⟩) := by decide

/-- O34. -/
theorem witness_ErroredAttemptIsDiscarded :
    RunningIn (machine fixedCfg (ready [0x01] 7 true) [] []) 0 (portWith (ready [0x01] 7 true) []) .ready ∧
    (portWith (ready [0x01] 7 true) []).ls.error = true := by decide

/-- O35. -/
theorem witness_InvalidFrameIsDiscarded :
    RunningIn (machine Config.straps (ready [0x01] 0 false) [] []) 0 (portWith (ready [0x01] 0 false) []) .ready ∧
    (portWith (ready [0x01] 0 false) []).ls.error = false ∧ decodeRtu [0x01] = .error .tooShort := by decide

/-- A machine in READY with the request frame, and these sink answers. -/
def readyMachine (answers : List Bool) : State :=
  machine Config.straps (ready readBytesFrame 0 false) [] answers

def readyPort : Port := portWith (ready readBytesFrame 0 false) []

/-- RA-10. -/
theorem ready_emits : exec (.raReadyEmit 0) (readyMachine [true]) =
    .next { readyMachine [] with ports := [portWith idle []], sink := ⟨[], 0, [⟨0, readFrameValue⟩]⟩ } :=
  eq_next (by decide +kernel)

/-- O36, a state for each clause. -/
theorem witness_ReadyEmitsOrHolds : (∀ answers, RunningIn (readyMachine answers) 0 readyPort .ready) ∧
    readyPort.ls.error = false ∧ decodeRtu readyPort.ls.packet = .ok readFrameValue ∧
    readFrameValue.address ≠ 0#8 ∧ Config.straps.portIds[0]? = some 0 ∧
    (∃ k, sinkAnswer (readyMachine [true]).sink = (true, k)) ∧
    (∃ k, sinkAnswer (readyMachine [false]).sink = (false, k)) ∧
    (readyMachine [true]).sink.answers = true :: [] ∧ (readyMachine []).sink.answers = [] :=
  ⟨fun _ => ⟨rfl, rfl, rfl, rfl⟩, rfl, by decide +kernel, by decide, rfl, ⟨_, rfl⟩, ⟨_, rfl⟩, rfl, rfl⟩

/-- O37. -/
theorem witness_BroadcastIsDroppedUnderDrop :
    RunningIn (machine dropCfg (ready broadcastBytes 0 false) [] []) 0 (portWith (ready broadcastBytes 0 false) [])
      .ready ∧ decodeRtu broadcastBytes = .ok broadcastFrame ∧ broadcastFrame.address = 0#8 ∧
    dropCfg.broadcast = .drop := by decide +kernel

/-- O38, with an accumulating packet. -/
theorem witness_ReadErrorActsAsEmptyRead :
    RunningIn (machine fixedCfg (acc [1] 7) [.error] []) 0 (portWith (acc [1] 7) [.error]) .accumulating ∧
    Phase.accumulating ≠ .ready ∧ PortInv fixedCfg (portWith (acc [1] 7) [.error]) ∧
    (machine fixedCfg (acc [1] 7) [.error] []).schedule = .port 0 :: [] ∧
    (portWith (acc [1] 7) [.error]).stream.tape = .error :: [] := by decide

/-- O39, one byte short of the prefix, and at the prefix of a longer frame. -/
theorem witness_ReadsStayWithinTheirBounds :
    (portStepRead fixedCfg 0 (portWith (acc [1, 2, 3, 4, 5, 6, 7] 1) [.bytes [8, 9]]) =
        some (.data [8], ⟨[.bytes [9]], 0⟩) ∧
      PortInv fixedCfg (portWith (acc [1, 2, 3, 4, 5, 6, 7] 1) [.bytes [8, 9]])) ∧
    portStepRead fixedCfg 0 (portWith (acc multiPrefix 5) [.bytes [1, 2, 3, 4, 5, 6]]) =
        some (.data [1, 2, 3, 4, 5], ⟨[.bytes [6]], 0⟩) ∧
      PortInv fixedCfg (portWith (acc multiPrefix 5) [.bytes [1, 2, 3, 4, 5, 6]]) ∧
      fixedCfg.framing = .fixedPrefix := ⟨⟨by decide, by decide⟩, by decide, by decide, by decide⟩

/-- A port in the middle of a frame, one byte of it read. -/
def segmentMachine : State := machine Config.straps (acc [1] 0) [.bytes [2]] []
def segmentPort : Port := portWith (acc [1] 0) [.bytes [2]]

/-- O40, for each clause. -/
theorem witness_PacketIsTheStreamInOrder : (portWith idle [.bytes [2]]).ls.packet = [] ∧ segmentMachine.Inv ∧
    (∃ s' q', step segmentMachine = .next s' ∧ segmentMachine.ports[0]? = some segmentPort ∧
      s'.ports[0]? = some q' ∧ SegmentInv [9, 1, 2] segmentPort) ∧
    ∃ s' q', exec (StepKind.instr .silAppend 0) segmentMachine = .next s' ∧
      segmentMachine.ports[0]? = some segmentPort ∧ s'.ports[0]? = some q' ∧
      segmentPort.ls.phase = .accumulating ∧ segmentPort.stream.tape ≠ [] ∧ q'.ls.error = false :=
  ⟨rfl, ⟨by decide, by decide, by decide, by decide⟩,
    ⟨_, _, rfl, rfl, rfl, ⟨[9, 1], rfl⟩, fun _ => ⟨[9], rfl⟩⟩, _, _, rfl, rfl, rfl, rfl, by decide, by decide⟩

/-- O42, with a read listed. -/
theorem witness_ReassemblerNeverStopsButByShutdown : (machine fixedCfg (acc [1] 7) [.silence] []).Inv ∧
    (machine fixedCfg (acc [1] 7) [.silence] []).schedule = .port 0 :: [] ∧ 0 < fixedCfg.numPorts :=
  ⟨⟨by decide, by decide, by decide, by decide⟩, by decide, by decide⟩

/-- O43. -/
theorem witness_EnvironmentDrawsNeverStopTheMachine : State.reset.Inv ∧ State.reset.schedule = [] :=
  ⟨⟨by decide, by decide, by decide, by decide⟩, rfl⟩

/-- Two machines that agree on port 1 only. -/
def twoMachine (other : ListenState) : State :=
  { State.resetWith twoCfg with ports := [portWith other [], portWith (acc [1] 0) [.bytes [2]]] }

/-- O44. -/
theorem witness_PortsAreIndependent : (twoMachine idle).cfg = (twoMachine (acc [9] 0)).cfg ∧
    (twoMachine idle).shutdown = (twoMachine (acc [9] 0)).shutdown ∧
    (twoMachine idle).sink = (twoMachine (acc [9] 0)).sink ∧
    (twoMachine idle).ports[1]? = (twoMachine (acc [9] 0)).ports[1]? ∧
    ∃ s', exec (StepKind.instr .silAppend 1) (twoMachine idle) = .next s' :=
  ⟨rfl, rfl, rfl, rfl, _, rfl⟩

/-- O45, for a step that emits. -/
theorem witness_AtMostOneReadOrOneEmit : ∃ s', exec (.raReadyEmit 0) (readyMachine [true]) = .next s' ∧
    s'.sink.accepted = [⟨0, readFrameValue⟩] := ⟨_, ready_emits, rfl⟩

/-- O46, for a step that sets the flag and for one that clears it. -/
theorem witness_ErrorFlagWriters :
    (∃ s' q', exec (StepKind.instr .fixAbort 0) (machine fixedCfg (acc [1] 7) [.silence] []) = .next s' ∧
      (machine fixedCfg (acc [1] 7) [.silence] []).ports[0]? = some (portWith (acc [1] 7) [.silence]) ∧
      s'.ports[0]? = some q' ∧ (portWith (acc [1] 7) [.silence]).ls.error = false ∧ q'.ls.error = true) ∧
    ∃ s' q', exec (StepKind.instr .readyError 0) (machine fixedCfg (ready [1] 7 true) [] []) = .next s' ∧
      (machine fixedCfg (ready [1] 7 true) [] []).ports[0]? = some (portWith (ready [1] 7 true) []) ∧
      s'.ports[0]? = some q' ∧ (portWith (ready [1] 7 true) []).ls.error = true ∧ q'.ls.error = false :=
  ⟨⟨_, _, rfl, rfl, rfl, rfl, rfl⟩, _, _, rfl, rfl, rfl, rfl, rfl⟩

/-- O47. -/
theorem witness_EmittedFrameIsThePacket : (readyMachine [true]).cfg.Legal ∧
    (readyMachine [true]).ports[0]? = some readyPort ∧ PortInv (readyMachine [true]).cfg readyPort ∧
    ∃ s', exec (.raReadyEmit 0) (readyMachine [true]) = .next s' ∧
      s'.sink.accepted = (readyMachine [true]).sink.accepted ++ [⟨0, readFrameValue⟩] ∧
      SegmentInv (0x7A :: readBytesFrame) readyPort :=
  ⟨by decide, rfl, by decide, _, ready_emits, rfl, ⟨0x7A :: readBytesFrame, rfl⟩, fun _ => ⟨[0x7A], rfl⟩⟩

/-- Two empty reads, a frame in two pieces, silence. -/
def resilienceTape : List Arrival :=
  [.error, .silence] ++ [.bytes [0x01, 0x03, 0x00, 0x05], .bytes [0x00, 0x01, 0x94, 0x0B]] ++ .silence :: []

/-- A machine in the middle of a truncated frame. -/
def resilienceMachine (c : Cfg) (ls : ListenState) : State :=
  { machine c ls resilienceTape [true, true] with schedule := List.replicate (2 + 8 + 3) (.port 0) ++ [] }

theorem resilience_inv : (resilienceMachine Config.straps (acc [0x01, 0x06] 0)).Inv ∧
    (resilienceMachine fixedCfg (acc [0x01, 0x06] 6)).Inv :=
  ⟨⟨by decide, by decide, by decide, by decide⟩, by decide, by decide, by decide, by decide⟩

/-- O48, under each framing policy, with gap length 2. -/
theorem witness_BadFrameResilience :
    ((resilienceMachine Config.straps (acc [0x01, 0x06] 0)).Inv ∧
      (resilienceMachine fixedCfg (acc [0x01, 0x06] 6)).Inv) ∧
    (∀ x ∈ [(Config.straps, acc [0x01, 0x06] 0), (fixedCfg, acc [0x01, 0x06] 6)],
      (resilienceMachine x.1 x.2).schedule = List.replicate (2 + readBytesFrame.length + 3) (.port 0) ++ [] ∧
      (portWith x.2 resilienceTape).run = .running ∧
      (resilienceMachine x.1 x.2).ports[0]? = some (portWith x.2 resilienceTape) ∧
      (resilienceMachine x.1 x.2).shutdown = false ∧ x.1.portIds[0]? = some 0 ∧
      (resilienceMachine x.1 x.2).sink.answers = true :: true :: [] ∧
      readBytesFrame.length ≤ x.1.maxFrame ∧ readBytesFrame.length = frameLen readBytesFrame) ∧
    (∀ a ∈ [Arrival.error, .silence], a.isGap = true) ∧
    (∀ a ∈ [Arrival.bytes [0x01, 0x03, 0x00, 0x05], .bytes [0x00, 0x01, 0x94, 0x0B]], a.isGap = false) ∧
    [Arrival.bytes [0x01, 0x03, 0x00, 0x05], .bytes [0x00, 0x01, 0x94, 0x0B]].flatMap Arrival.content =
      readBytesFrame ∧
    decodeRtu readBytesFrame = .ok readFrameValue ∧ readFrameValue.address ≠ 0#8 :=
  ⟨resilience_inv, by decide +kernel⟩

/-- O49. -/
theorem witness_InvariantAtReset : twoCfg.Legal ∧ { Config.straps with numPorts := 0, portIds := [] }.Legal := by
  decide

/-- O50. -/
theorem witness_InvariantKeptByEveryStep : (machine fixedCfg (acc [1] 7) [.silence] []).Inv ∧
    ∃ s', step (machine fixedCfg (acc [1] 7) [.silence] []) = .next s' := ⟨⟨by decide, by decide, by decide, by decide⟩, _, rfl⟩

/-- O51, at the last port of two. -/
theorem witness_ResetValues : 1 < twoCfg.numPorts := by decide

/-- O52, a state for each clause. -/
theorem witness_ResetRestartsTheBlock : stoppedMachine.cfg.Legal ∧
    { stoppedMachine with schedule := [.reset twoCfg] }.schedule = .reset twoCfg :: [] ∧ twoCfg.Legal ∧
    1 < twoCfg.numPorts ∧ stoppedMachine.ports[0]? = some stoppedPort ∧
    ¬ { twoCfg with portIds := [7, 7] }.Legal := by decide

/-- O53, a CFG for each clause. -/
theorem witness_IllegalConfigurationIsRefused : ({ twoCfg with portIds := [7] }).portIds.length ≠ twoCfg.numPorts ∧
    ¬ ({ twoCfg with portIds := [7, 7] }).portIds.Nodup ∧ ({ twoCfg with readChunk := 0 }).readChunk = 0 ∧
    ({ twoCfg with maxFrame := 7 }).maxFrame < 8 ∧ ({ twoCfg with readTimeout := 0 }).readTimeout = 0 ∧
    ({ twoCfg with checkProtocolId := true }).checkProtocolId = true := by decide

/-- O54. -/
theorem witness_ConfigurationIsNeverWritten :
    ∃ s', exec (.raFixAbort 0) (machine fixedCfg (acc [1] 7) [.silence] []) = .next s' := ⟨_, rfl⟩

/-- O55, a state for each clause. -/
theorem witness_ShutdownStaysAsserted :
    (shutdownMachine.shutdown = true ∧ (∀ c rest, shutdownMachine.schedule ≠ .reset c :: rest) ∧
      ∃ s', step shutdownMachine = .next s') ∧
    (∃ s', step { stoppedMachine with shutdown := true } = .next s' ∧ s'.ports[0]? = some stoppedPort) ∧
    State.reset.cfg.Legal ∧ { State.reset with schedule := [.shutdown] }.schedule = .shutdown :: [] :=
  ⟨⟨rfl, fun _ _ => nofun, _, rfl⟩, ⟨_, rfl, rfl⟩, by decide, rfl⟩

/-- O56, for each kind of turn. -/
theorem witness_StepRunsTheDecodedInstruction : State.reset.cfg.Legal ∧
    decode (.command [0x01, 0]) = .ok (.crc16 []) ∧ decode (.pdu [0x07]) = .ok (.fcOther 0x07 []) ∧
    (readyMachine []).ports[0]? = some readyPort ∧ readyPort.run = .running ∧
    (readyMachine []).schedule = .port 0 :: [] := by decide +kernel

/-- O57, at operands of both variants and at the ends of the open function bytes. -/
theorem witness_DecodeOfEncodeIsTheInstruction : ∀ i ∈ [Instr.toBytes (.rtu readFrameValue),
    .setException (.tcp tcpFrameValue) 0xFF, .fcException 0x80 [], .fcOther 0x7F []], i.wellFormed = true := by
  decide +kernel

/-- O58. -/
theorem witness_EncodeOfDecodeIsTheCode :
    decode (.command [0x30, 0, 0x01, 0x83, 1, 0x02, 0]) = .ok (.toBytes (.rtu exceptionFrame)) := by decide +kernel

/-- O59, at the neighbours of assigned codes. -/
theorem witness_UnassignedCommandsAreRefused : ∀ code ∈ [0x00#8, 0x03#8, 0x0F#8, 0x12#8, 0x23#8, 0x2B#8, 0xFF#8],
    code ∉ [0x01#8, 0x02#8, 0x10#8, 0x11#8, 0x20#8, 0x21#8, 0x22#8, 0x28#8, 0x29#8, 0x2A#8, 0x30#8] := by decide

end Sys2Proof.Tests
end

section
/-! SUPPORT. Scheduled turns and free draws (spec/00_scope.md R9, R10; spec/45_reassembler.md R180, R194): what a turn
runs, and that a RUNNING port's turn always answers a next state. Settles O56 and O43. -/

namespace Sys2Proof.Machine

/-! ### The selector of a step -/

/-- The schedule is no part of what selects a step. -/
@[simp] theorem stepKey_setSchedule (s : State) (l : List Turn) (p : Nat) (q : Port) :
    stepKey (s.setSchedule l) p q = stepKey s p q := rfl

/-- A selector that falls under a row of R86 decodes to that row's instruction. -/
theorem decode_select {key : StepKey} {k : StepKind} (h : kindOf key = some k) (p : Nat) :
    decode (.select key p) = .ok (k.instr p) := by
  simp only [decode, decodeStep, h]

/-- The rows that a READY port can fall under (R86). -/
theorem kindOf_ready {key : StepKey} {k : StepKind} (hk : kindOf key = some k) (hp : key.phase = .ready) :
    k = .shutdown ∨ k = .readyError ∨ k = .readyInvalid ∨ k = .readyEmit ∨ k = .readyBcastDrop := by
  unfold kindOf at hk
  repeat' split at hk
  all_goals simp_all

/-- RA_READY_EMIT is selected only where DECODE_RTU answers a frame (R191). -/
theorem verdict_of_kindOf_readyEmit {key : StepKey} (hk : kindOf key = some .readyEmit) :
    key.verdict ≠ .frameError := by
  unfold kindOf at hk
  repeat' split at hk
  all_goals simp_all

/-- A packet whose verdict is no FrameError decodes. -/
theorem decodeRtu_of_verdictOf {packet : Bytes} (h : verdictOf packet ≠ .frameError) :
    ∃ f, decodeRtu packet = .ok f := by
  cases hd : decodeRtu packet with
  | ok f => exact ⟨f, rfl⟩
  | error e => simp [verdictOf, hd] at h

/-! ### A selected step answers -/

section SelectedStep

variable {s : State} {p : Nat} {q : Port} {k : StepKind}

/-- A selected reading step outside READY makes its read and answers. -/
theorem readingStep_answers (hq : s.ports[p]? = some q) (hr : q.run = .running)
    (hk : kindOf (stepKey s p q) = some k) (hp : q.ls.phase ≠ .ready)
    (update : Bytes → ListenState → ListenState) : ∃ s', readingStep k p s update = .next s' := by
  cases hread : portStepRead s.cfg p q with
  | none => exact absurd (portStepRead_none.mp hread) hp
  | some x => exact ⟨_, by rw [readingStep, portStep_selected hq hr hk, hread]⟩

/-- A selected discarding step answers. -/
theorem discardAttempt_answers (hq : s.ports[p]? = some q) (hr : q.run = .running)
    (hk : kindOf (stepKey s p q) = some k) : ∃ s', discardAttempt k p s = .next s' :=
  ⟨_, by rw [discardAttempt, portStep_selected hq hr hk]⟩

/-- A selected RA_READY_EMIT of a port that has a handle answers, whether the sink accepts or not. -/
theorem execRaReadyEmit_answers (hq : s.ports[p]? = some q) (hr : q.run = .running)
    (hk : kindOf (stepKey s p q) = some .readyEmit) (hp : p < s.cfg.portIds.length) :
    ∃ s', execRaReadyEmit p s = .next s' := by
  obtain ⟨f, hf⟩ := decodeRtu_of_verdictOf (verdict_of_kindOf_readyEmit hk)
  rw [execRaReadyEmit, portStep_selected hq hr hk, List.getElem?_eq_getElem hp, hf]
  obtain ⟨k', hemit, _⟩ | ⟨k', hemit, _⟩ := emit_cases ⟨s.cfg.portIds[p], f⟩ s.sink
  · exact ⟨_, by simp only [hemit]; rfl⟩
  · exact ⟨_, by simp only [hemit]; rfl⟩

/-- The step that a RUNNING port's state selects always answers a next state (R194). -/
theorem exec_selected_answers (hq : s.ports[p]? = some q) (hr : q.run = .running)
    (hk : kindOf (stepKey s p q) = some k) (hp : p < s.cfg.portIds.length) :
    ∃ s', exec (k.instr p) s = .next s' := by
  have hready (h : q.ls.phase = .ready) := kindOf_ready hk h
  cases k with
  | shutdown => exact ⟨_, portStep_selected hq hr hk⟩
  | idleDrain => exact readingStep_answers hq hr hk (by simpa using hready) fun _ ls => ls
  | idleAdvance => exact readingStep_answers hq hr hk (by simpa using hready) fun _ ls => newAttempt s.cfg ls
  | silAppend => exact readingStep_answers hq hr hk (by simpa using hready) fun bs ls => appendBounded s.cfg bs ls
  | silWait => exact readingStep_answers hq hr hk (by simpa using hready) fun _ ls => ls
  | silBoundary => exact readingStep_answers hq hr hk (by simpa using hready) fun _ ls => toReady ls
  | fixAppend => exact readingStep_answers hq hr hk (by simpa using hready) fun bs ls => appendFixed s.cfg bs ls
  | fixWait => exact readingStep_answers hq hr hk (by simpa using hready) fun _ ls => ls
  | fixAbort => exact readingStep_answers hq hr hk (by simpa using hready) fun _ ls => toReady (raiseError ls)
  | readyError => exact discardAttempt_answers hq hr hk
  | readyInvalid => exact discardAttempt_answers hq hr hk
  | readyEmit => exact execRaReadyEmit_answers hq hr hk hp
  | readyBcastDrop => exact discardAttempt_answers hq hr hk

end SelectedStep

/-! ### Turns -/

/-- A code that decodes is run. -/
theorem runFetched_run {c : Code} {i : Instr} (h : decode c = .ok i) (s : State) :
    runFetched (.run c s) = exec i s := by
  simp only [runFetched, h]

/-- With a legal CFG a step takes the first listed turn. -/
theorem step_cons {s : State} {t : Turn} {rest : List Turn} (hc : s.cfg.Legal) (h : s.schedule = t :: rest) :
    step s = runFetched (fetchTurn t (s.setSchedule rest)) := by
  rw [step_legal hc, fetch_cons h]

/-- With a legal CFG and no turn listed a step draws its turn. -/
theorem step_nil {s : State} (hc : s.cfg.Legal) (h : s.schedule = []) : step s = runFetched (drawTurn s) := by
  rw [step_legal hc, fetch, h]

/-- The turn of a RUNNING port runs the step kind its state selects. -/
theorem runFetched_fetchPort_running {s : State} {p : Nat} {q : Port} {k : StepKind} (hq : s.ports[p]? = some q)
    (hr : q.run = .running) (hk : kindOf (stepKey s p q) = some k) :
    runFetched (fetchPort p s) = exec (k.instr p) s := by
  simp only [fetchPort, hq, hr, runFetched_run (decode_select hk p)]

/-- The turn of a STOPPED port changes nothing (R32). -/
theorem runFetched_fetchPort_stopped {s : State} {p : Nat} {q : Port} (hq : s.ports[p]? = some q)
    (hr : q.run = .stopped) : runFetched (fetchPort p s) = .next s := by
  simp only [fetchPort, hq, hr, runFetched]

/-- The turn of any port that exists answers a next state, where every port has a handle. -/
theorem runFetched_fetchPort_answers {s : State} {p : Nat} (hp : p < s.ports.length)
    (hids : s.ports.length = s.cfg.portIds.length) : ∃ s', runFetched (fetchPort p s) = .next s' := by
  have hq := List.getElem?_eq_getElem hp
  cases hr : s.ports[p].run with
  | stopped => exact ⟨s, runFetched_fetchPort_stopped hq hr⟩
  | running =>
    obtain ⟨k, hk⟩ := kindOf_total s p s.ports[p]
    rw [runFetched_fetchPort_running hq hr hk]
    exact exec_selected_answers hq hr hk (hids ▸ hp)

/-- Whatever turn the environment draws, it answers a next state, where every port has a handle. -/
theorem runFetched_drawTurn_answers {s : State} (hids : s.ports.length = s.cfg.portIds.length) :
    ∃ s', runFetched (drawTurn s) = .next s' := by
  unfold drawTurn
  cases Config.scheduled s.draws with
  | none => exact ⟨_, rfl⟩
  | some n =>
    by_cases hn : s.ports.length = 0
    · exact ⟨_, by simp only [if_pos hn, runFetched]; rfl⟩
    · simp only [if_neg hn]
      exact runFetched_fetchPort_answers (Nat.mod_lt n (Nat.pos_of_ne_zero hn)) hids

/-! ### The statements -/

/-- Settles O56: the first turn is fetched and its code decoded; for a RUNNING port, R86 is total. -/
theorem stepRunsTheDecodedInstruction : Obligations.StepRunsTheDecodedInstruction := by
  intro s rest hc
  refine ⟨fun bs i hs hd => ?_, fun bs i hs hd => ?_, fun p q hs hq hr => ?_⟩
  · rw [step_cons hc hs]
    exact runFetched_run hd _
  · rw [step_cons hc hs]
    exact runFetched_run hd _
  · obtain ⟨k, hk⟩ := kindOf_total s p q
    refine ⟨k, decode_select hk p, ?_⟩
    rw [step_cons hc hs]
    exact runFetched_fetchPort_running (by simpa using hq) hr (by simpa using hk)

/-- Settles O43: a drawn turn is SHUTDOWN or one of a port that exists, and either answers a next state. -/
theorem environmentDrawsNeverStopTheMachine : Obligations.EnvironmentDrawsNeverStopTheMachine := by
  intro s hinv hs
  obtain ⟨hc, hports, _, _⟩ := hinv
  have hids : s.cfg.portIds.length = s.cfg.numPorts := hc.1
  rw [step_nil hc hs]
  exact runFetched_drawTurn_answers (hports.trans hids.symm)

end Sys2Proof.Machine
end

section
/-! SUPPORT. What an instruction and a step can do: the rows of R86 read backwards, the effect of each step kind on its
port, and the state after any instruction and any turn (spec/45_reassembler.md R180 to R193; spec/00_scope.md R9).
Settles O18, O54, O55 and O28. -/

namespace Sys2Proof

/-- The columns of a row of R86, as conditions on the selector. -/
def StepKey.InRow (key : StepKey) : StepKind → Prop
  | .shutdown => key.event = .shutdown
  | .idleDrain => key.event = .data ∧ key.phase = .idle
  | .idleAdvance => key.event = .empty ∧ key.phase = .idle
  | .silAppend => key.event = .data ∧ key.phase = .accumulating ∧ key.framing = .silence
  | .silWait => key.event = .empty ∧ key.phase = .accumulating ∧ key.framing = .silence ∧ key.packetEmpty = true
  | .silBoundary => key.event = .empty ∧ key.phase = .accumulating ∧ key.framing = .silence ∧ key.packetEmpty = false
  | .fixAppend => key.event = .data ∧ key.phase = .accumulating ∧ key.framing = .fixedPrefix
  | .fixWait => key.event = .empty ∧ key.phase = .accumulating ∧ key.framing = .fixedPrefix ∧ key.packetEmpty = true
  | .fixAbort => key.event = .empty ∧ key.phase = .accumulating ∧ key.framing = .fixedPrefix ∧ key.packetEmpty = false
  | .readyError => key.event = .none ∧ key.phase = .ready ∧ key.error = true
  | .readyInvalid => key.event = .none ∧ key.phase = .ready ∧ key.error = false ∧ key.verdict = .frameError
  | .readyEmit => key.event = .none ∧ key.phase = .ready ∧ key.error = false ∧
      (key.verdict = .addressed ∨ key.verdict = .broadcast ∧ key.broadcast = .emit)
  | .readyBcastDrop => key.event = .none ∧ key.phase = .ready ∧ key.error = false ∧
      key.verdict = .broadcast ∧ key.broadcast = .drop

/-- An operation's value is sound when a Frame value keeps R23's invariant. -/
def CmdResult.Sound : CmdResult → Prop
  | .frame f => f.wellFormed = true
  | .word _ | .bool _ | .byte _ | .bytes _ | .frameError _ | .pdu _ => True

end Sys2Proof

namespace Sys2Proof.Machine

/-! ### The rows of R86 -/

/-- A selector has the columns of the row it selects. -/
theorem inRow_of_kindOf {key : StepKey} {k : StepKind} (h : kindOf key = some k) : key.InRow k := by
  unfold kindOf at h
  repeat' split at h
  all_goals cases h
  all_goals simp_all [StepKey.InRow]

/-- A data event is a read that returned data. -/
theorem portStepRead_of_stepEvent_data {s : State} {p : Nat} {q : Port} {r : ReadResult} {st : Stream}
    (he : stepEvent s p q = .data) (hread : portStepRead s.cfg p q = some (r, st)) : ∃ bs, r = .data bs := by
  cases r with
  | data bs => exact ⟨bs, rfl⟩
  | empty => unfold stepEvent at he; split at he <;> simp [hread] at he
  | error => unfold stepEvent at he; split at he <;> simp [hread] at he

/-- An empty event is a read that returned no bytes. -/
theorem portStepRead_of_stepEvent_empty {s : State} {p : Nat} {q : Port} {r : ReadResult} {st : Stream}
    (he : stepEvent s p q = .empty) (hread : portStepRead s.cfg p q = some (r, st)) : r = .empty := by
  obtain ⟨_, _, _, ⟨bs, rfl, _⟩ | rfl⟩ := portStepRead_some hread
  · unfold stepEvent at he
    split at he <;> simp [hread] at he
  · rfl

/-! ### The effect of a step kind -/

/-- What a reading step kind does to the ListenState with the bytes it read (R184, R186, R188); none for the kinds that
make no read. -/
def readUpdate (c : Cfg) : StepKind → Option (Bytes → ListenState → ListenState)
  | .idleDrain | .silWait | .fixWait => some fun _ ls => ls
  | .idleAdvance => some fun _ ls => newAttempt c ls
  | .silAppend => some fun bs ls => appendBounded c bs ls
  | .silBoundary => some fun _ ls => toReady ls
  | .fixAppend => some fun bs ls => appendFixed c bs ls
  | .fixAbort => some fun _ ls => toReady (raiseError ls)
  | .shutdown | .readyError | .readyInvalid | .readyEmit | .readyBcastDrop => none

/-- The states that a step of kind `k` of port `p`, found in state `q`, can lead to. -/
inductive PortEffect (s : State) (p : Nat) (q : Port) : StepKind → State → Prop where
  /-- RA_SHUTDOWN (R183) -/
  | stop : PortEffect s p q .shutdown (s.setPort p { q with run := .stopped })
  /-- a step that reads (R184, R186, R188) -/
  | read {k : StepKind} {update : Bytes → ListenState → ListenState} {r : ReadResult} {st : Stream} :
      readUpdate s.cfg k = some update → portStepRead s.cfg p q = some (r, st) →
      PortEffect s p q k (s.setPort p { q with ls := update r.bytes q.ls, stream := st })
  /-- a step that discards the frame attempt (R190, R192, R193) -/
  | discard {k : StepKind} : k = .readyError ∨ k = .readyInvalid ∨ k = .readyBcastDrop →
      PortEffect s p q k (s.setPort p { q with ls := ListenState.reset })
  /-- RA_READY_EMIT where the sink accepts (R191, R31) -/
  | accept {handle : Nat} {f : RtuFrame} {sink : Sink} : s.cfg.portIds[p]? = some handle →
      decodeRtu q.ls.packet = .ok f → sink.accepted = s.sink.accepted ++ [{ port := handle, frame := f }] →
      PortEffect s p q .readyEmit ((s.setSink sink).setPort p { q with ls := ListenState.reset })
  /-- RA_READY_EMIT where the sink does not accept (R191, R31) -/
  | hold {sink : Sink} : sink.accepted = s.sink.accepted → PortEffect s p q .readyEmit (s.setSink sink)

/-- A step of port `p` was taken: the port exists, it is RUNNING, its state selects the kind, and the kind has its
effect. -/
structure PortStepped (s : State) (p : Nat) (k : StepKind) (q : Port) (s' : State) : Prop where
  port : s.ports[p]? = some q
  running : q.run = .running
  selected : kindOf (stepKey s p q) = some k
  effect : PortEffect s p q k s'

section Stepped

variable {s s' : State} {p : Nat} {k : StepKind}

/-- A reading step that answers has the effect of a read. -/
theorem stepped_of_readingStep {update : Bytes → ListenState → ListenState} (hu : readUpdate s.cfg k = some update)
    (h : readingStep k p s update = .next s') : ∃ q, PortStepped s p k q s' := by
  obtain ⟨q, r, st, hq, hrun, hk, hread, rfl⟩ := readingStep_next h
  exact ⟨q, hq, hrun, hk, .read hu hread⟩

/-- A discarding step that answers has the effect of a discard. -/
theorem stepped_of_discardAttempt (hk : k = .readyError ∨ k = .readyInvalid ∨ k = .readyBcastDrop)
    (h : discardAttempt k p s = .next s') : ∃ q, PortStepped s p k q s' := by
  obtain ⟨q, hq, hrun, hsel, rfl⟩ := discardAttempt_next h
  exact ⟨q, hq, hrun, hsel, .discard hk⟩

/-- An RA_SHUTDOWN that answers stops its port. -/
theorem stepped_of_execRaShutdown (h : execRaShutdown p s = .next s') : ∃ q, PortStepped s p .shutdown q s' := by
  obtain ⟨q, hq, hrun, hk, hbody⟩ := portStep_next h
  cases hbody
  exact ⟨q, hq, hrun, hk, .stop⟩

/-- An RA_READY_EMIT that answers has its Request accepted, or holds. -/
theorem stepped_of_execRaReadyEmit (h : execRaReadyEmit p s = .next s') : ∃ q, PortStepped s p .readyEmit q s' := by
  obtain ⟨q, hq, hrun, hk, hbody⟩ := portStep_next h
  refine ⟨q, hq, hrun, hk, ?_⟩
  split at hbody
  · cases hbody
  · cases hbody
  · next handle f hhandle hf =>
    obtain ⟨sink, hemit, hacc⟩ | ⟨sink, hemit, hacc⟩ := emit_cases ⟨handle, f⟩ s.sink
    · rw [hemit] at hbody
      cases hbody
      exact .accept hhandle hf hacc
    · rw [hemit] at hbody
      cases hbody
      exact .hold hacc

/-- A step kind that answers a next state has been taken, with its effect. -/
theorem exec_stepKind_next (h : exec (k.instr p) s = .next s') : ∃ q, PortStepped s p k q s' := by
  cases k with
  | shutdown => exact stepped_of_execRaShutdown h
  | idleDrain => exact stepped_of_readingStep rfl h
  | idleAdvance => exact stepped_of_readingStep rfl h
  | silAppend => exact stepped_of_readingStep rfl h
  | silWait => exact stepped_of_readingStep rfl h
  | silBoundary => exact stepped_of_readingStep rfl h
  | fixAppend => exact stepped_of_readingStep rfl h
  | fixWait => exact stepped_of_readingStep rfl h
  | fixAbort => exact stepped_of_readingStep rfl h
  | readyError => exact stepped_of_discardAttempt (.inl rfl) h
  | readyInvalid => exact stepped_of_discardAttempt (.inr (.inl rfl)) h
  | readyEmit => exact stepped_of_execRaReadyEmit h
  | readyBcastDrop => exact stepped_of_discardAttempt (.inr (.inr rfl)) h

end Stepped

/-- A step writes the ports' records, but not their number, and the sink; nothing else. -/
theorem PortStepped.frame {s s' : State} {p : Nat} {k : StepKind} {q : Port} (h : PortStepped s p k q s') :
    s'.cfg = s.cfg ∧ s'.shutdown = s.shutdown ∧ s'.schedule = s.schedule ∧ s'.ports.length = s.ports.length ∧
      s'.parked = s.parked ∧ s'.draws = s.draws ∧ s'.result = s.result := by
  cases h.effect <;> simp

/-- A step of port `p` leaves the other ports alone. -/
theorem PortStepped.other {s s' : State} {p j : Nat} {k : StepKind} {q : Port} (h : PortStepped s p k q s')
    (hj : p ≠ j) : s'.ports[j]? = s.ports[j]? := by
  cases h.effect <;> simp [hj]

/-! ### Decoding an RTU frame -/

/-- A string of at least 4 bytes is an address, a function byte, a payload and two trailing bytes. -/
theorem exists_body_of_four_le {b : Bytes} (h : 4 ≤ b.length) :
    ∃ a fn pl lo hi, b = a :: fn :: pl ++ [lo, hi] := by
  obtain ⟨a, fn, rest, rfl⟩ : ∃ a fn rest, b = a :: fn :: rest := by
    match b, h with
    | a :: fn :: rest, _ => exact ⟨a, fn, rest, rfl⟩
  have hdrop : (rest.drop (rest.length - 2)).length = 2 := by simp at h ⊢; omega
  obtain ⟨lo, hi, hlast⟩ := List.length_eq_two.mp hdrop
  exact ⟨a, fn, rest.take (rest.length - 2), lo, hi, by simp [← hlast]⟩

/-- VALIDATE compares the CRC of the body with the two trailing bytes, low byte first (R105). -/
theorem validate_append_pair (body : Bytes) (lo hi : Byte) :
    validate (body ++ [lo, hi]) = (crc16 body == join16 lo hi) := by
  simp [validate, u16le, byteAt]

/-- DECODE_RTU splits its operand into the frame's fields (R121). -/
theorem decodeRtu_append_pair (a fn : Byte) (pl : Bytes) (lo hi : Byte) :
    decodeRtu (a :: fn :: pl ++ [lo, hi]) =
      if crc16 (a :: fn :: pl) = join16 lo hi then .ok ⟨a, fn, pl, join16 lo hi⟩ else .error .badCrc := by
  have hv := validate_append_pair (a :: fn :: pl) lo hi
  simp only [List.cons_append] at hv ⊢
  simp [decodeRtu, hv, u16le, byteAt]

/-- A frame that DECODE_RTU answers: its bytes are the operand, which validates and has at least 4 bytes, and it keeps
R23's invariant. -/
theorem decodeRtu_ok {b : Bytes} {f : RtuFrame} (h : decodeRtu b = .ok f) :
    4 ≤ b.length ∧ validate b = true ∧ f.wellFormed = true ∧ rtuBytes f = b := by
  have hlen : 4 ≤ b.length := by
    by_contra hshort
    simp [decodeRtu, not_le.mp hshort] at h
  obtain ⟨a, fn, pl, lo, hi, rfl⟩ := exists_body_of_four_le hlen
  rw [decodeRtu_append_pair] at h
  split at h
  · next hcrc =>
    cases h
    refine ⟨hlen, by simpa [hcrc] using validate_append_pair (a :: fn :: pl) lo hi,
      by simp [RtuFrame.wellFormed, bodyCrc, hcrc], ?_⟩
    simp [rtuBytes, bodyCrc, hcrc]
  · cases h

/-! ### Every instruction -/

/-- SET_PAYLOAD computes the CRC again (R163, D10). -/
theorem setPayload_wellFormed (f : Frame) (payload : Bytes) : (setPayload f payload).wellFormed = true := by
  cases f with
  | rtu g => exact beq_self_eq_true _
  | tcp g => rfl

/-- SET_EXCEPTION computes the CRC again (R164, D10). -/
theorem setException_wellFormed (f : Frame) (e : Byte) : (setException f e).wellFormed = true := by
  cases f with
  | rtu g => exact beq_self_eq_true _
  | tcp g => rfl

/-! ### Every instruction -/

section Exec

variable {s s' : State}

/-- `s'` is `s` with a value answered, which is sound where the instruction is well-formed. -/
def AnswersFrom (s : State) (wellFormed : Bool) (s' : State) : Prop :=
  ∃ r, s' = s.setResult r ∧ (wellFormed = true → r.Sound)

/-- An answered value is the only change. -/
theorem answersFrom_of_answer {r : CmdResult} {wf : Bool} (h : answer r s = .next s') (hr : wf = true → r.Sound) :
    AnswersFrom s wf s' := by
  cases h
  exact ⟨r, rfl, hr⟩

/-- DECODE_RTU answers a Frame value or a FrameError (R121). -/
theorem answersFrom_of_execDecodeRtu {b : Bytes} {wf : Bool} (h : execDecodeRtu b s = .next s') :
    AnswersFrom s wf s' := by
  unfold execDecodeRtu at h
  split at h
  · next f hf =>
    obtain ⟨_, _, hwf, _⟩ := decodeRtu_ok hf
    exact answersFrom_of_answer h fun _ => hwf
  · exact answersFrom_of_answer h fun _ => trivial

/-- DECODE_TCP answers a TcpFrame or a FrameError (R141). -/
theorem answersFrom_of_execDecodeTcp {b : Bytes} {wf : Bool} (h : execDecodeTcp b s = .next s') :
    AnswersFrom s wf s' := by
  unfold execDecodeTcp at h
  split at h
  · exact answersFrom_of_answer h fun _ => rfl
  · exact answersFrom_of_answer h fun _ => trivial

/-- A SET_EXCEPTION that is not refused answers a frame with a new CRC (R164). -/
theorem answersFrom_of_execSetException {f : Frame} {e : Byte} {wf : Bool} (h : execSetException f e s = .next s') :
    AnswersFrom s wf s' := by
  unfold execSetException at h
  split at h
  · cases h
  · exact answersFrom_of_answer h fun _ => setException_wellFormed f e

/-- A TO_BYTES that is not refused answers bytes (R166). -/
theorem answersFrom_of_execToBytes {f : Frame} {wf : Bool} (h : execToBytes f s = .next s') :
    AnswersFrom s wf s' := by
  unfold execToBytes at h
  split at h
  · exact answersFrom_of_answer h fun _ => trivial
  · cases h

/-- Everything an instruction that answers a next state can do: an operation answers a value, and a step kind is a step
of its port. -/
theorem exec_next {i : Instr} (h : exec i s = .next s') :
    AnswersFrom s i.wellFormed s' ∨ ∃ k p q, i = k.instr p ∧ PortStepped s p k q s' := by
  have stepped (k : StepKind) (p : Nat) (h : exec (k.instr p) s = .next s') :
      ∃ k' p' q, k.instr p = k'.instr p' ∧ PortStepped s p' k' q s' := by
    obtain ⟨q, hq⟩ := exec_stepKind_next h
    exact ⟨k, p, q, rfl, hq⟩
  cases i with
  | crc16 b => exact .inl (answersFrom_of_answer h fun _ => trivial)
  | validate f => exact .inl (answersFrom_of_answer h fun _ => trivial)
  | decodeRtu b => exact .inl (answersFrom_of_execDecodeRtu h)
  | decodeTcp b => exact .inl (answersFrom_of_execDecodeTcp h)
  | getAddress f => exact .inl (answersFrom_of_answer h fun _ => trivial)
  | getFunction f => exact .inl (answersFrom_of_answer h fun _ => trivial)
  | getPayload f => exact .inl (answersFrom_of_answer h fun _ => trivial)
  | setPayload f payload => exact .inl (answersFrom_of_answer h fun _ => setPayload_wellFormed f payload)
  | setException f e => exact .inl (answersFrom_of_execSetException h)
  | copyAsResponse f => exact .inl (answersFrom_of_answer h fun hf => hf)
  | toBytes f => exact .inl (answersFrom_of_execToBytes h)
  | raShutdown p => exact .inr (stepped .shutdown p h)
  | raIdleDrain p => exact .inr (stepped .idleDrain p h)
  | raIdleAdvance p => exact .inr (stepped .idleAdvance p h)
  | raSilAppend p => exact .inr (stepped .silAppend p h)
  | raSilWait p => exact .inr (stepped .silWait p h)
  | raSilBoundary p => exact .inr (stepped .silBoundary p h)
  | raFixAppend p => exact .inr (stepped .fixAppend p h)
  | raFixWait p => exact .inr (stepped .fixWait p h)
  | raFixAbort p => exact .inr (stepped .fixAbort p h)
  | raReadyError p => exact .inr (stepped .readyError p h)
  | raReadyInvalid p => exact .inr (stepped .readyInvalid p h)
  | raReadyEmit p => exact .inr (stepped .readyEmit p h)
  | raReadyBcastDrop p => exact .inr (stepped .readyBcastDrop p h)
  | fc01ReadCoils payload => exact .inl (answersFrom_of_answer h fun _ => trivial)
  | fc02ReadDiscreteInputs payload => exact .inl (answersFrom_of_answer h fun _ => trivial)
  | fc03ReadHoldingRegisters payload => exact .inl (answersFrom_of_answer h fun _ => trivial)
  | fc04ReadInputRegisters payload => exact .inl (answersFrom_of_answer h fun _ => trivial)
  | fc05WriteSingleCoil payload => exact .inl (answersFrom_of_answer h fun _ => trivial)
  | fc06WriteHoldingRegister payload => exact .inl (answersFrom_of_answer h fun _ => trivial)
  | fc0FWriteMultipleCoils payload => exact .inl (answersFrom_of_answer h fun _ => trivial)
  | fc10WriteMultipleHoldingRegisters payload => exact .inl (answersFrom_of_answer h fun _ => trivial)
  | fcException function payload => exact .inl (answersFrom_of_answer h fun _ => trivial)
  | fcOther function payload => exact .inl (answersFrom_of_answer h fun _ => trivial)

/-- What no instruction writes. -/
theorem exec_frame {i : Instr} (h : exec i s = .next s') :
    s'.cfg = s.cfg ∧ s'.shutdown = s.shutdown ∧ s'.schedule = s.schedule ∧ s'.ports.length = s.ports.length ∧
      s'.parked = s.parked ∧ s'.draws = s.draws := by
  obtain ⟨r, rfl, _⟩ | ⟨k, p, q, _, hstep⟩ := exec_next h
  · simp
  · obtain ⟨hcfg, hshut, hsched, hports, hparked, hdraws, _⟩ := hstep.frame
    exact ⟨hcfg, hshut, hsched, hports, hparked, hdraws⟩

/-- No instruction writes a port that is STOPPED (R32). -/
theorem exec_stopped {i : Instr} (h : exec i s = .next s') {j : Nat} {q : Port} (hq : s.ports[j]? = some q)
    (hr : q.run = .stopped) : s'.ports[j]? = some q := by
  obtain ⟨r, rfl, _⟩ | ⟨k, p, q', _, hstep⟩ := exec_next h
  · exact hq
  · have hj : p ≠ j := by
      rintro rfl
      have hsame : q = q' := Option.some.inj (hq.symm.trans hstep.port)
      have hrun := hstep.running
      rw [← hsame, hr] at hrun
      cases hrun
    rw [hstep.other hj, hq]

end Exec

/-! ### Every step -/

section Step

variable {s s' : State}

/-- `b` is `s` with its next turn taken: the first listed one gone, or one more drawn. -/
def TurnTaken (s b : State) : Prop :=
  (∃ t rest, s.schedule = t :: rest ∧ b = s.setSchedule rest) ∨ s.schedule = [] ∧ b = { s with draws := s.draws + 1 }

/-- Taking a turn changes the schedule and the count of drawn turns alone. -/
theorem TurnTaken.frame {b : State} (h : TurnTaken s b) :
    b.cfg = s.cfg ∧ b.ports = s.ports ∧ b.shutdown = s.shutdown ∧ b.sink = s.sink := by
  obtain ⟨t, rest, _, rfl⟩ | ⟨_, rfl⟩ := h <;> simp

/-- What a step does once its turn is taken, where it answers a next state. -/
inductive TurnEffect (s b : State) : State → Prop where
  /-- the scheduled agent has no step to take (R32, R180) -/
  | idle : TurnEffect s b b
  /-- SHUTDOWN is asserted (R32) -/
  | shutdown : TurnEffect s b { b with shutdown := true }
  /-- a listed reset with legal straps (R250, R251) -/
  | reset {c : Cfg} {rest : List Turn} : s.schedule = .reset c :: rest → c.Legal → TurnEffect s b (applyReset c b)
  /-- an instruction is run -/
  | exec {i : Instr} {s' : State} : exec i b = .next s' → TurnEffect s b s'

/-- A code that is run and answers is an instruction that answers. -/
theorem turnEffect_of_run {b : State} {c : Code} (h : runFetched (.run c b) = .next s') : TurnEffect s b s' := by
  unfold runFetched at h
  cases hd : decode c with
  | ok i => simp only [hd] at h; exact .exec h
  | error e => simp [hd] at h

/-- A scheduled port is STOPPED, or its step's instruction is run. -/
theorem turnEffect_of_fetchPort {b : State} {p : Nat} (h : runFetched (fetchPort p b) = .next s') :
    TurnEffect s b s' := by
  unfold fetchPort at h
  split at h
  · cases h
  · split at h
    · cases h
      exact .idle
    · exact turnEffect_of_run h

/-- The effect of the first listed turn. -/
theorem turnEffect_of_fetchTurn {b : State} {t : Turn} {rest : List Turn} (hs : s.schedule = t :: rest)
    (h : runFetched (fetchTurn t b) = .next s') : TurnEffect s b s' := by
  cases t with
  | port p => exact turnEffect_of_fetchPort h
  | command bs => exact turnEffect_of_run h
  | pdu bs => exact turnEffect_of_run h
  | shutdown => cases h; exact .shutdown
  | reset c =>
    simp only [fetchTurn] at h
    split at h
    · next hc => cases h; exact .reset hs hc
    · cases h

/-- The effect of a drawn turn: SHUTDOWN, or the turn of a port. -/
theorem turnEffect_of_drawTurn (h : runFetched (drawTurn s) = .next s') :
    TurnEffect s { s with draws := s.draws + 1 } s' := by
  unfold drawTurn at h
  cases hd : Config.scheduled s.draws with
  | none => simp only [hd] at h; cases h; exact .shutdown
  | some n =>
    simp only [hd] at h
    split at h
    · cases h; exact .idle
    · exact turnEffect_of_fetchPort h

/-- Everything a step that answers a next state can do: CFG is legal, a turn is taken, and the turn has its effect. -/
theorem step_next (h : step s = .next s') : s.cfg.Legal ∧ ∃ b, TurnTaken s b ∧ TurnEffect s b s' := by
  have hc : s.cfg.Legal := by
    by_contra hc
    simp [step, if_neg hc] at h
  refine ⟨hc, ?_⟩
  cases hs : s.schedule with
  | nil =>
    rw [step_nil hc hs] at h
    exact ⟨_, .inr ⟨hs, rfl⟩, turnEffect_of_drawTurn h⟩
  | cons t rest =>
    rw [step_cons hc hs] at h
    exact ⟨_, .inl ⟨t, rest, hs, rfl⟩, turnEffect_of_fetchTurn hs h⟩

end Step

/-! ### The statements -/

/-- Settles O18: an operation answers a sound value, and a step leaves the result. -/
theorem answeredFramesKeepTheCrcInvariant : Obligations.AnsweredFramesKeepTheCrcInvariant := by
  intro i s s' f hi hs h hf
  obtain ⟨r, rfl, hr⟩ | ⟨k, p, q, _, hstep⟩ := exec_next h
  · cases hf
    exact hr hi
  · obtain ⟨_, _, _, _, _, _, hresult⟩ := hstep.frame
    exact hs f (hresult ▸ hf)

/-- Settles O54: an operation writes its result, and a step its port and the sink. -/
theorem configurationIsNeverWritten : Obligations.ConfigurationIsNeverWritten :=
  fun _ _ _ h => exec_frame h

/-- Settles O55: of a step's effects only a reset deasserts SHUTDOWN or writes a STOPPED port. -/
theorem shutdownStaysAsserted : Obligations.ShutdownStaysAsserted := by
  refine ⟨fun s s' hshut hreset h => ?_, fun s rest hc hs => ?_⟩
  · obtain ⟨_, b, hb, heffect⟩ := step_next h
    obtain ⟨_, hports, hbshut, _⟩ := hb.frame
    have stays {q q' : Port} {j : Nat} (hq : s.ports[j]? = some q) (hr : q.run = .stopped)
        (hq' : b.ports[j]? = some q') : q'.run = .stopped := by
      rw [hports, hq] at hq'
      cases hq'
      exact hr
    cases heffect with
    | idle => exact ⟨hbshut.trans hshut, fun j q q' hq hr hq' => stays hq hr hq'⟩
    | shutdown => exact ⟨rfl, fun j q q' hq hr hq' => stays hq hr hq'⟩
    | reset hs _ => exact absurd hs (hreset _ _)
    | exec hexec =>
      obtain ⟨_, hkeep, _⟩ := exec_frame hexec
      refine ⟨by rw [hkeep, hbshut, hshut], fun j q q' hq hr hq' => ?_⟩
      rw [exec_stopped hexec (by rw [hports, hq]) hr] at hq'
      cases hq'
      exact hr
  · rw [step_cons hc hs]
    rfl

/-- Settles O28: the turn of a STOPPED port is used up. -/
theorem stoppedPortTakesNoStep : Obligations.StoppedPortTakesNoStep := by
  intro s p q rest hc hq hr hs
  rw [step_cons hc hs]
  exact runFetched_fetchPort_stopped (by simpa using hq) hr

end Sys2Proof.Machine
end

section
/-! SUPPORT. The invariants of a port, of an accepted Request and of the machine, kept by every step kind, every
instruction and every turn (spec/45_reassembler.md R181 to R195; spec/10_state.md R26, R35), and the writers of the
error flag (R29). Settles O50, O39, O46, O49 and O51. -/

namespace Sys2Proof.Machine

/-! ### The read of a step -/

/-- No step asks for more than `read_chunk` bytes, nor, under FIXED_PREFIX, for more than it expects (R184, R185). -/
theorem readRequest_le {c : Cfg} {ls : ListenState} {mode : ReadMode} {max : Nat}
    (h : readRequest c ls = some (mode, max)) :
    max ≤ c.readChunk ∧ (c.framing = .fixedPrefix → ls.phase = .accumulating → max ≤ ls.expected) := by
  unfold readRequest at h
  cases hp : ls.phase with
  | idle => simp_all
  | ready => simp [hp] at h
  | accumulating =>
    cases hf : c.framing with
    | silence => simp_all
    | fixedPrefix =>
      simp only [hp, hf, Option.some.injEq, Prod.mk.injEq] at h
      obtain ⟨_, rfl⟩ := h
      simp

/-- The bounds of the data a step reads (R30, R185). -/
theorem portStepRead_data {c : Cfg} {p : Nat} {q : Port} {bs : Bytes} {st : Stream}
    (h : portStepRead c p q = some (.data bs, st)) :
    1 ≤ bs.length ∧ bs.length ≤ c.readChunk ∧
      (c.framing = .fixedPrefix → q.ls.phase = .accumulating → bs.length ≤ q.ls.expected) := by
  obtain ⟨mode, max, hreq, ⟨bs', hbs, hpos, hmax⟩ | hempty⟩ := portStepRead_some h
  · cases hbs
    obtain ⟨hchunk, hexpected⟩ := readRequest_le hreq
    exact ⟨hpos, hmax.trans hchunk, fun hf hp => hmax.trans (hexpected hf hp)⟩
  · cases hempty

/-! ### The two appends, case by case -/

/-- A bounded append of something to a packet within a nonzero bound leaves no empty packet. -/
theorem appendBounded_packet_ne_nil {c : Cfg} {bs : Bytes} {ls : ListenState} (hmax : 0 < c.maxFrame)
    (hbs : 1 ≤ bs.length) : (appendBounded c bs ls).packet ≠ [] := by
  have hpos : 0 < (appendBounded c bs ls).packet.length := by
    unfold appendBounded
    simp only
    split
    · simp; omega
    · simp; omega
  exact List.ne_nil_of_length_pos hpos

/-- A bounded append sets the error flag exactly when bytes do not fit (R189). -/
theorem appendBounded_error {c : Cfg} {bs : Bytes} {ls : ListenState} (hbs : 1 ≤ bs.length) :
    (appendBounded c bs ls).error = true ↔ ls.error = true ∨ c.maxFrame < (ls.packet ++ bs).length := by
  rw [List.length_append]
  unfold appendBounded
  simp only
  split
  · simp; omega
  · simp; omega

/-- The cases of R188: the read leaves bytes expected, completes a frame of more than 8 bytes, or completes
the first 8 bytes, which then size the frame. -/
theorem appendFixed_cases (c : Cfg) (bs : Bytes) (ls : ListenState) :
    (bs.length < ls.expected ∧ appendFixed c bs ls =
      { ls with packet := ls.packet ++ bs, expected := ls.expected - bs.length }) ∨
    (ls.expected ≤ bs.length ∧ (ls.packet ++ bs).length ≠ 8 ∧ appendFixed c bs ls =
      toReady { ls with packet := ls.packet ++ bs, expected := 0 }) ∨
    (ls.expected ≤ bs.length ∧ (ls.packet ++ bs).length = 8 ∧ appendFixed c bs ls =
      sizePrefix c { ls with packet := ls.packet ++ bs, expected := 0 }) := by
  unfold appendFixed prefixLen
  simp only
  by_cases hlt : bs.length < ls.expected
  · exact .inl ⟨hlt, if_neg (by omega)⟩
  · have hzero : ls.expected - bs.length = 0 := by omega
    simp only [hzero, if_true]
    by_cases h8 : (ls.packet ++ bs).length = 8
    · exact .inr (.inr ⟨by omega, h8, if_pos h8⟩)
    · exact .inr (.inl ⟨by omega, h8, if_neg h8⟩)

/-- RA_FIX_APPEND sets the error flag exactly when it completes the first 8 bytes of a frame longer than
max_frame (R188). -/
theorem appendFixed_error {c : Cfg} {bs : Bytes} {ls : ListenState} :
    (appendFixed c bs ls).error = true ↔ ls.error = true ∨ ls.expected ≤ bs.length ∧ (ls.packet ++ bs).length = 8 ∧
      c.maxFrame < frameLen (ls.packet ++ bs) := by
  obtain ⟨hlt, heq⟩ | ⟨_, hne, heq⟩ | ⟨hle, h8, heq⟩ := appendFixed_cases c bs ls
  · simp [heq, not_le.mpr hlt]
  · simp only [heq, toReady_error, hne, false_and, and_false, or_false]
  · rw [heq]
    obtain ⟨hover, hsize⟩ | ⟨hfit, _, hsize⟩ | ⟨hfit, _, hsize⟩ :=
      sizePrefix_cases c { ls with packet := ls.packet ++ bs, expected := 0 }
    · simp only [hsize, toReady_error, raiseError_error, hle, h8, hover, and_self, or_true]
    · simp only [hsize, toReady_error, not_lt.mpr hfit, and_false, or_false]
    · simp only [hsize, not_lt.mpr hfit, and_false, or_false]

/-! ### The invariant of a port -/

section PortInvariant

variable {c : Cfg} {q : Port} {run : RunState} {st : Stream}

/-- The invariant speaks of the ListenState alone. -/
theorem portInv_of_same_ls (h : PortInv c q) : PortInv c { run := run, ls := q.ls, stream := st } := h

/-- A ListenState after reset, or after `toIdle()`, keeps the invariant (R35, R181). -/
theorem portInv_reset : PortInv c { run := run, ls := ListenState.reset, stream := st } := by
  simp [PortInv, ListenState.reset]

/-- A new attempt keeps the invariant (R181). -/
theorem portInv_newAttempt (ls : ListenState) : PortInv c { run := run, ls := newAttempt c ls, stream := st } := by
  cases hf : c.framing <;> simp [PortInv, newAttempt, hf, prefixLen]

/-- A READY attempt keeps the invariant where its packet is not empty, within max_frame and, unless its error flag is
set, of the length FIXED_PREFIX gives it. -/
theorem portInv_ready {ls : ListenState} (hp : ls.phase = .ready) (hlen : ls.packet.length ≤ c.maxFrame)
    (hexp : c.framing = .silence → ls.expected = 0) (hne : ls.packet ≠ [])
    (hframe : c.framing = .fixedPrefix → ls.error = false → ls.packet.length = frameLen ls.packet) :
    PortInv c { run := run, ls := ls, stream := st } :=
  ⟨hlen, hexp, by simp [hp], fun _ => hne, fun h => absurd h hne, by simp [hp], fun hf _ => hframe hf⟩

/-- A clear ACCUMULATING attempt under FIXED_PREFIX keeps the invariant where it expects the rest of its first 8 bytes,
or the rest of the length those gave. -/
theorem portInv_accumulating {ls : ListenState} (hf : c.framing = .fixedPrefix) (hp : ls.phase = .accumulating)
    (herr : ls.error = false) (hlen : ls.packet.length ≤ c.maxFrame) (hexp : 1 ≤ ls.expected)
    (hcase : (ls.packet.length < 8 ∧ ls.packet.length + ls.expected = 8) ∨
      (8 ≤ ls.packet.length ∧ ls.packet.length + ls.expected = frameLen ls.packet ∧
        frameLen ls.packet ≤ c.maxFrame)) :
    PortInv c { run := run, ls := ls, stream := st } :=
  ⟨hlen, by simp [hf], by simp [hp], by simp [hp], fun _ => herr, fun _ _ => ⟨herr, hexp, hcase⟩, by simp [hp]⟩

/-- The end of a frame under SILENCE keeps the invariant (R186). -/
theorem portInv_boundary (h : PortInv c q) (hf : c.framing = .silence) (hne : q.ls.packet ≠ []) :
    PortInv c { run := run, ls := toReady q.ls, stream := st } := by
  obtain ⟨hlen, hexp, _⟩ := h
  exact portInv_ready rfl hlen hexp hne (by simp [hf])

/-- An abort keeps the invariant (R188). -/
theorem portInv_abort (h : PortInv c q) (hne : q.ls.packet ≠ []) :
    PortInv c { run := run, ls := toReady (raiseError q.ls), stream := st } := by
  obtain ⟨hlen, hexp, _⟩ := h
  exact portInv_ready rfl hlen hexp hne (by simp)

/-- The append of SILENCE keeps the invariant (R186, R189). -/
theorem portInv_appendBounded {bs : Bytes} (h : PortInv c q) (hmax : 0 < c.maxFrame) (hf : c.framing = .silence)
    (hp : q.ls.phase = .accumulating) (hbs : 1 ≤ bs.length) :
    PortInv c { run := run, ls := appendBounded c bs q.ls, stream := st } := by
  obtain ⟨hlen, hexp, _⟩ := h
  obtain ⟨hbound, hphase, hexpected⟩ := appendBounded_spec c bs q.ls hlen
  have hne := appendBounded_packet_ne_nil (ls := q.ls) hmax hbs
  exact ⟨hbound, fun _ => hexpected.trans (hexp hf), by simp [hphase, hp], fun _ => hne, fun h => absurd h hne,
    by simp [hf], by simp [hf]⟩

/-- The first 8 bytes, once complete, keep the invariant, whatever length they give (R188). -/
theorem portInv_sizePrefix {ls : ListenState} (hmax : 8 ≤ c.maxFrame) (hf : c.framing = .fixedPrefix)
    (hp : ls.phase = .accumulating) (herr : ls.error = false) (h8 : ls.packet.length = 8) :
    PortInv c { run := run, ls := sizePrefix c ls, stream := st } := by
  have hne : ls.packet ≠ [] := List.ne_nil_of_length_pos (by omega)
  have hge := frameLen_ge ls.packet
  obtain ⟨_, hsize⟩ | ⟨_, hlen8, hsize⟩ | ⟨hfit, hlen8, hsize⟩ := sizePrefix_cases c ls
  · rw [hsize]
    exact portInv_ready rfl (h8.trans_le hmax) (by simp [hf]) hne (by simp)
  · rw [hsize]
    exact portInv_ready rfl (h8.trans_le hmax) (by simp [hf]) hne fun _ _ => h8.trans hlen8.symm
  · rw [hsize]
    exact portInv_accumulating hf hp herr (h8.trans_le hmax) (by simp only; omega)
      (.inr ⟨h8.ge, by simp only; omega, hfit⟩)

/-- The append of FIXED_PREFIX keeps the invariant (R187, R188): the packet and what it still expects have the same sum
after the read, which is 8 until the length is known and frameLen after it. -/
theorem portInv_appendFixed {bs : Bytes} (h : PortInv c q) (hmax : 8 ≤ c.maxFrame) (hf : c.framing = .fixedPrefix)
    (hp : q.ls.phase = .accumulating) (hbs : 1 ≤ bs.length) (hle : bs.length ≤ q.ls.expected) :
    PortInv c { run := run, ls := appendFixed c bs q.ls, stream := st } := by
  obtain ⟨_, _, _, _, _, hacc, _⟩ := h
  obtain ⟨herr, _, hcase⟩ := hacc hf hp
  have happ : (q.ls.packet ++ bs).length = q.ls.packet.length + bs.length := List.length_append
  have hne : q.ls.packet ++ bs ≠ [] := List.ne_nil_of_length_pos (by omega)
  have hframe : 8 ≤ q.ls.packet.length → frameLen (q.ls.packet ++ bs) = frameLen q.ls.packet :=
    frameLen_append q.ls.packet bs
  obtain ⟨hlt, heq⟩ | ⟨hge, hne8, heq⟩ | ⟨hge, h8, heq⟩ := appendFixed_cases c bs q.ls
  · rw [heq]
    exact portInv_accumulating hf hp herr (by simp only; omega) (by simp only; omega) (by simp only; omega)
  · rw [heq]
    exact portInv_ready rfl (by simp only [toReady_packet]; omega) (by simp [hf]) hne
      fun _ _ => by simp only [toReady_packet]; omega
  · rw [heq]
    exact portInv_sizePrefix hmax hf hp herr h8

end PortInvariant

/-! ### The invariant of an emitted Request -/

/-- A Request that the sink accepts in READY keeps the guarantees of R195: its frame is the packet. -/
theorem requestInv_of_decodeRtu {c : Cfg} {q : Port} {handle : Nat} {f : RtuFrame} (hport : handle ∈ c.portIds)
    (hinv : PortInv c q) (hp : q.ls.phase = .ready) (herr : q.ls.error = false) (hd : decodeRtu q.ls.packet = .ok f)
    (haddr : c.broadcast = .drop → f.address ≠ 0#8) : RequestInv c { port := handle, frame := f } := by
  obtain ⟨hlen, _, _, _, _, _, hframe⟩ := hinv
  obtain ⟨hfour, hvalid, hwf, hbytes⟩ := decodeRtu_ok hd
  simp only [RequestInv, hbytes]
  exact ⟨hport, hwf, hfour, hlen, hvalid, fun hf => hframe hf hp herr, haddr⟩

/-- A frame with the verdict "addressed" has an address other than 0 (R86). -/
theorem address_ne_zero_of_verdict {packet : Bytes} {f : RtuFrame} (hd : decodeRtu packet = .ok f)
    (hv : verdictOf packet = .addressed) : f.address ≠ 0#8 := by
  intro h0
  simp [verdictOf, hd, h0] at hv

/-! ### The machine's invariant -/

namespace State

variable {s : State}

/-- A machine with one port replaced keeps the invariant where the new record keeps its own. -/
theorem inv_setPort {p : Nat} {q : Port} (h : s.Inv) (hq : PortInv s.cfg q) : (s.setPort p q).Inv := by
  obtain ⟨hc, hlen, hports, hacc⟩ := h
  refine ⟨hc, by simpa using hlen, fun q' hq' => ?_, hacc⟩
  obtain hmem | rfl := List.mem_or_eq_of_mem_set hq'
  · exact hports q' hmem
  · exact hq

/-- A machine with a new sink keeps the invariant where the log holds no other Requests than before. -/
theorem inv_setSink {k : Sink} (h : s.Inv) (hk : k.accepted = s.sink.accepted) : (s.setSink k).Inv := by
  obtain ⟨hc, hlen, hports, hacc⟩ := h
  exact ⟨hc, hlen, hports, fun r hr => hacc r (hk ▸ hr)⟩

/-- A machine whose sink accepted one more Request keeps the invariant where that Request keeps its own. -/
theorem inv_setSink_append {k : Sink} {r : Request} (h : s.Inv) (hr : RequestInv s.cfg r)
    (hk : k.accepted = s.sink.accepted ++ [r]) : (s.setSink k).Inv := by
  obtain ⟨hc, hlen, hports, hacc⟩ := h
  refine ⟨hc, hlen, hports, fun r' hr' => ?_⟩
  rw [setSink_sink, hk, List.mem_append, List.mem_singleton] at hr'
  obtain hmem | rfl := hr'
  · exact hacc r' hmem
  · exact hr

/-- The invariant speaks of CFG, the ports and the accepted Requests alone. -/
theorem inv_of_same {b : State} (h : s.Inv) (hcfg : b.cfg = s.cfg) (hports : b.ports = s.ports)
    (hsink : b.sink = s.sink) : b.Inv := by
  unfold State.Inv
  rw [hcfg, hports, hsink]
  exact h

/-- A reset with legal straps establishes the invariant (R250, R35). -/
theorem inv_applyReset {c : Cfg} (hc : c.Legal) (s : State) : (applyReset c s).Inv := by
  refine ⟨hc, by simp [applyReset], fun q hq => ?_, fun r hr => ?_⟩
  · obtain ⟨p, _, rfl⟩ := List.mem_map.mp hq
    exact portInv_reset
  · cases hr

end State

/-! ### The invariant along a step -/

section Kept

variable {s s' : State} {p : Nat} {q : Port} {k : StepKind}

/-- A step that reads keeps its port's invariant (R184, R186, R188). -/
theorem portInv_read {update : Bytes → ListenState → ListenState} {r : ReadResult} {st : Stream}
    (hmax : 8 ≤ s.cfg.maxFrame) (hq : PortInv s.cfg q) (hk : kindOf (stepKey s p q) = some k)
    (hu : readUpdate s.cfg k = some update) (hread : portStepRead s.cfg p q = some (r, st)) :
    PortInv s.cfg { q with ls := update r.bytes q.ls, stream := st } := by
  have hrow := inRow_of_kindOf hk
  have hne (h : (stepKey s p q).packetEmpty = false) : q.ls.packet ≠ [] := by simpa [stepKey] using h
  cases k with
  | idleDrain => cases hu; exact portInv_of_same_ls hq
  | silWait => cases hu; exact portInv_of_same_ls hq
  | fixWait => cases hu; exact portInv_of_same_ls hq
  | idleAdvance => cases hu; exact portInv_newAttempt q.ls
  | silAppend =>
    cases hu
    obtain ⟨he, hp, hf⟩ := hrow
    obtain ⟨bs, rfl⟩ := portStepRead_of_stepEvent_data he hread
    obtain ⟨hpos, _, _⟩ := portStepRead_data hread
    exact portInv_appendBounded hq (by omega) hf hp hpos
  | silBoundary =>
    cases hu
    obtain ⟨_, _, hf, hpacket⟩ := hrow
    exact portInv_boundary hq hf (hne hpacket)
  | fixAppend =>
    cases hu
    obtain ⟨he, hp, hf⟩ := hrow
    obtain ⟨bs, rfl⟩ := portStepRead_of_stepEvent_data he hread
    obtain ⟨hpos, _, hexp⟩ := portStepRead_data hread
    exact portInv_appendFixed hq hmax hf hp hpos (hexp hf hp)
  | fixAbort =>
    cases hu
    obtain ⟨_, _, _, hpacket⟩ := hrow
    exact portInv_abort hq (hne hpacket)
  | shutdown => cases hu
  | readyError => cases hu
  | readyInvalid => cases hu
  | readyEmit => cases hu
  | readyBcastDrop => cases hu

/-- A step of a port keeps the machine's invariant. -/
theorem PortStepped.inv (h : PortStepped s p k q s') (hinv : s.Inv) : s'.Inv := by
  obtain ⟨hport, _, hk, heffect⟩ := h
  have ⟨⟨_, _, _, hmax, _⟩, _, hports, _⟩ := hinv
  have hq := hports q (List.mem_of_getElem? hport)
  cases heffect with
  | stop => exact State.inv_setPort hinv (portInv_of_same_ls hq)
  | read hu hread => exact State.inv_setPort hinv (portInv_read hmax hq hk hu hread)
  | discard => exact State.inv_setPort hinv portInv_reset
  | @accept handle f sink hhandle hd hacc =>
    obtain ⟨_, hp, herr, hverdict⟩ := inRow_of_kindOf hk
    have haddr : s.cfg.broadcast = .drop → f.address ≠ 0#8 := fun hdrop =>
      address_ne_zero_of_verdict hd (hverdict.resolve_right (by simp [stepKey, hdrop]))
    have hr := requestInv_of_decodeRtu (List.mem_of_getElem? hhandle) hq hp herr hd haddr
    exact State.inv_setPort (State.inv_setSink_append hinv hr hacc) portInv_reset
  | hold hacc => exact State.inv_setSink hinv hacc

/-- Every instruction keeps the machine's invariant. -/
theorem exec_inv {i : Instr} (h : exec i s = .next s') (hinv : s.Inv) : s'.Inv := by
  obtain ⟨r, rfl, _⟩ | ⟨k, p, q, _, hstep⟩ := exec_next h
  · exact State.inv_of_same hinv rfl rfl rfl
  · exact hstep.inv hinv

end Kept

/-! ### The error flag -/

/-- The steps that set the error flag: an abort, an append under SILENCE of more bytes than max_frame leaves room for,
and an append under FIXED_PREFIX that completes the first 8 bytes of a frame longer than max_frame (R29, R188, R189). -/
def RaisesError (s : State) (p : Nat) (q : Port) (k : StepKind) : Prop :=
  k = .fixAbort ∨ ∃ bs st, portStepRead s.cfg p q = some (.data bs, st) ∧
    ((k = .silAppend ∧ s.cfg.maxFrame < (q.ls.packet ++ bs).length) ∨
     (k = .fixAppend ∧ q.ls.expected ≤ bs.length ∧ (q.ls.packet ++ bs).length = 8 ∧
        s.cfg.maxFrame < frameLen (q.ls.packet ++ bs)))

/-- The steps that clear the error flag: a new attempt and the discard of an errored one (R181, R190). -/
def ClearsError (k : StepKind) : Prop := k = .idleAdvance ∨ k = .readyError

section ErrorFlag

variable {s s' : State} {p : Nat} {q q' : Port} {k : StepKind}

/-- No step both sets and clears the flag. -/
theorem RaisesError.not_clearsError (h : RaisesError s p q k) : ¬ ClearsError k := by
  obtain rfl | ⟨_, _, _, ⟨rfl, _⟩ | ⟨rfl, _⟩⟩ := h <;> simp [ClearsError]

/-- What a reading step does to the error flag (R181, R186, R188, R189). -/
theorem readUpdate_error {st : Stream} {r : ReadResult} {update : Bytes → ListenState → ListenState}
    (hk : kindOf (stepKey s p q) = some k) (hu : readUpdate s.cfg k = some update)
    (hread : portStepRead s.cfg p q = some (r, st)) :
    (update r.bytes q.ls).error = true ↔ (q.ls.error = true ∧ ¬ ClearsError k) ∨ RaisesError s p q k := by
  unfold ClearsError RaisesError
  have hrow := inRow_of_kindOf hk
  cases k with
  | silAppend =>
    cases hu
    obtain ⟨he, _⟩ := hrow
    obtain ⟨bs, rfl⟩ := portStepRead_of_stepEvent_data he hread
    obtain ⟨hpos, _, _⟩ := portStepRead_data hread
    simp [appendBounded_error hpos, hread]
  | fixAppend =>
    cases hu
    obtain ⟨he, _⟩ := hrow
    obtain ⟨bs, rfl⟩ := portStepRead_of_stepEvent_data he hread
    simp [appendFixed_error, hread]
  | idleDrain => cases hu; simp
  | idleAdvance => cases hu; simp
  | silWait => cases hu; simp
  | silBoundary => cases hu; simp
  | fixWait => cases hu; simp
  | fixAbort => cases hu; simp
  | shutdown => cases hu
  | readyError => cases hu
  | readyInvalid => cases hu
  | readyEmit => cases hu
  | readyBcastDrop => cases hu

/-- A discard that is selected while the error flag is set is RA_READY_ERROR (R190, R225). -/
theorem discard_clearsError (hk : kindOf (stepKey s p q) = some k)
    (hd : k = .readyError ∨ k = .readyInvalid ∨ k = .readyBcastDrop) (he : q.ls.error = true) : ClearsError k := by
  have hrow := inRow_of_kindOf hk
  obtain rfl | rfl | rfl := hd
  · exact .inr rfl
  · obtain ⟨_, _, hclear, _⟩ := hrow
    exact absurd he (by simpa [stepKey] using hclear)
  · obtain ⟨_, _, hclear, _⟩ := hrow
    exact absurd he (by simpa [stepKey] using hclear)

/-- Everything a step does to its port's error flag. -/
theorem PortStepped.error_iff (h : PortStepped s p k q s') (hq' : s'.ports[p]? = some q') :
    q'.ls.error = true ↔ (q.ls.error = true ∧ ¬ ClearsError k) ∨ RaisesError s p q k := by
  obtain ⟨hport, _, hk, heffect⟩ := h
  cases heffect with
  | stop =>
    rw [State.setPort_self _ _ _ hport] at hq'
    cases hq'
    simp [ClearsError, RaisesError]
  | read hu hread =>
    rw [State.setPort_self _ _ _ hport] at hq'
    cases hq'
    exact readUpdate_error hk hu hread
  | discard hd =>
    rw [State.setPort_self _ _ _ hport] at hq'
    cases hq'
    have hclears := discard_clearsError hk hd
    have hraises : ¬ RaisesError s p q k := by
      obtain rfl | rfl | rfl := hd <;> simp [RaisesError]
    simp only [ListenState.reset, hraises, or_false, Bool.false_eq_true, false_iff, not_and, not_not]
    exact hclears
  | accept =>
    rw [State.setPort_self _ _ _ (by simpa using hport)] at hq'
    cases hq'
    obtain ⟨_, _, herr, _⟩ := inRow_of_kindOf hk
    have herr : q.ls.error = false := herr
    simp [ListenState.reset, RaisesError, herr]
  | hold =>
    cases hport.symm.trans hq'
    simp [ClearsError, RaisesError]

end ErrorFlag

/-! ### The statements -/

/-- Settles O50: a turn leaves what the invariant speaks of, and each of its effects keeps it. -/
theorem invariantKeptByEveryStep : Obligations.InvariantKeptByEveryStep := by
  intro s s' hinv h
  obtain ⟨_, b, hb, heffect⟩ := step_next h
  obtain ⟨hcfg, hports, _, hsink⟩ := hb.frame
  have hbinv : b.Inv := State.inv_of_same hinv hcfg hports hsink
  cases heffect with
  | idle => exact hbinv
  | shutdown => exact State.inv_of_same hbinv rfl rfl rfl
  | reset _ hc => exact State.inv_applyReset hc b
  | exec hexec => exact exec_inv hexec hbinv

/-- Settles O39: the invariant gives the sum of the packet's length and what the port still expects. -/
theorem readsStayWithinTheirBounds : Obligations.ReadsStayWithinTheirBounds := by
  intro c p q bs st hread
  obtain ⟨hpos, hchunk, hexp⟩ := portStepRead_data hread
  refine ⟨hpos, hchunk, fun hinv hf hp => ?_⟩
  obtain ⟨_, _, _, _, _, hacc, _⟩ := hinv
  obtain ⟨_, _, hcase⟩ := hacc hf hp
  have hle := hexp hf hp
  rw [List.length_append]
  omega

/-- Settles O46: the flag after a step is set where it was set and not cleared, or where the step sets it. -/
theorem errorFlagWriters : Obligations.ErrorFlagWriters := by
  intro s s' k p q q' h hq hq'
  obtain ⟨q₀, hstep⟩ := exec_stepKind_next h
  cases hq.symm.trans hstep.port
  have hflag := hstep.error_iff hq'
  refine ⟨fun hclear => ?_, fun hset => ?_⟩
  · rw [hflag, hclear]
    simp only [Bool.false_eq_true, false_and, false_or]
    exact Iff.rfl
  · rw [← Bool.not_eq_true, hflag]
    refine ⟨fun hnot => ?_, fun hclears hstill => ?_⟩
    · by_contra hkeeps
      exact hnot (.inl ⟨hset, hkeeps⟩)
    · obtain ⟨_, hkeeps⟩ | hraises := hstill
      · exact hkeeps hclears
      · exact hraises.not_clearsError hclears

/-- Settles O49: every port of a reset machine is RUNNING in IDLE, and no Request was accepted. -/
theorem invariantAtReset : Obligations.InvariantAtReset := by
  have hreset (c : Cfg) (hc : c.Legal) : (State.resetWith c).Inv := by
    refine ⟨hc, List.length_replicate, fun q hq => ?_, fun r hr => ?_⟩
    · rw [List.eq_of_mem_replicate hq]
      exact portInv_reset
    · cases hr
  exact ⟨hreset, hreset Config.straps (by decide)⟩

/-- Settles O51: a reset machine holds `num_ports` copies of the reset port. -/
theorem resetValues : Obligations.ResetValues := by
  intro c
  refine ⟨rfl, List.length_replicate, fun p hp => ⟨Port.reset, ?_, rfl, rfl, rfl, rfl, rfl⟩, rfl, rfl, rfl⟩
  exact List.getElem?_replicate_of_lt hp

end Sys2Proof.Machine
end

section
/-! SUPPORT. The packet of an attempt and the byte stream of its port: what a step reads of the stream, and that the
bytes read are appended in order, once (spec/20_memory.md R59; spec/45_reassembler.md R186, R188). Settles O40. -/

namespace Sys2Proof.Machine

/-! ### The read of a step -/

/-- The bytes that reach port `p`'s stream at a read: none, or a free draw where the stream listed nothing (R30). -/
def Arrived (p : Nat) (st : Stream) (arrived : Bytes) : Prop :=
  arrived = [] ∨ st.tape = [] ∧ arrived = (Config.arrival p st.draws).content

/-- A stream that lists something is not added to. -/
theorem Arrived.eq_nil {p : Nat} {st : Stream} {arrived : Bytes} (h : Arrived p st arrived) (hst : st.tape ≠ []) :
    arrived = [] :=
  h.resolve_right fun hdrawn => hst hdrawn.1

@[simp] theorem normalise_bytes (r : ReadResult) : (normalise r).bytes = r.bytes := by cases r <;> rfl

/-- The bytes a step reads and those it leaves are those the stream listed, followed by those that arrived. -/
theorem portStepRead_arrived {c : Cfg} {p : Nat} {q : Port} {r : ReadResult} {st : Stream}
    (h : portStepRead c p q = some (r, st)) :
    ∃ arrived, r.bytes ++ st.content = q.stream.content ++ arrived ∧ Arrived p q.stream arrived := by
  unfold portStepRead at h
  split at h
  · cases h
  · next mode max _ =>
    obtain ⟨rfl, rfl⟩ := Prod.mk.inj (Option.some.inj h)
    rw [normalise_bytes]
    exact portRead_arrived p mode max q.stream

/-! ### The appends -/

/-- A bounded append that leaves the error flag clear found it clear, and appended every byte (R189). -/
theorem appendBounded_of_clear {c : Cfg} {bs : Bytes} {ls : ListenState}
    (h : (appendBounded c bs ls).error = false) :
    ls.error = false ∧ (appendBounded c bs ls).packet = ls.packet ++ bs := by
  unfold appendBounded at h ⊢
  simp only at h ⊢
  split at h
  · cases h
  · next hfits => exact ⟨h, by rw [if_neg hfits]⟩

/-- Sizing a frame leaves its packet (R188). -/
@[simp] theorem sizePrefix_packet (c : Cfg) (ls : ListenState) : (sizePrefix c ls).packet = ls.packet := by
  obtain ⟨_, h⟩ | ⟨_, _, h⟩ | ⟨_, _, h⟩ := sizePrefix_cases c ls <;> rw [h] <;> rfl

/-- The append of FIXED_PREFIX appends every byte (R188). -/
@[simp] theorem appendFixed_packet (c : Cfg) (bs : Bytes) (ls : ListenState) :
    (appendFixed c bs ls).packet = ls.packet ++ bs := by
  obtain ⟨_, h⟩ | ⟨_, _, h⟩ | ⟨_, _, h⟩ := appendFixed_cases c bs ls
  · rw [h]
  · rw [h, toReady_packet]
  · rw [h, sizePrefix_packet]

/-- The append of FIXED_PREFIX never clears the error flag. -/
theorem appendFixed_clear {c : Cfg} {bs : Bytes} {ls : ListenState} (h : (appendFixed c bs ls).error = false) :
    ls.error = false := by
  by_contra hset
  simp [appendFixed_error.mpr (.inl (by simpa using hset))] at h

/-! ### The rows of a phase -/

/-- The rows that an IDLE port can fall under (R86). -/
theorem kindOf_idle {key : StepKey} {k : StepKind} (hk : kindOf key = some k) (hp : key.phase = .idle) :
    k = .shutdown ∨ k = .idleDrain ∨ k = .idleAdvance := by
  unfold kindOf at hk
  repeat' split at hk
  all_goals simp_all

/-- The rows that an ACCUMULATING port can fall under (R86). -/
theorem kindOf_accumulating {key : StepKey} {k : StepKind} (hk : kindOf key = some k)
    (hp : key.phase = .accumulating) :
    k = .shutdown ∨ k = .silAppend ∨ k = .silWait ∨ k = .silBoundary ∨ k = .fixAppend ∨ k = .fixWait ∨
      k = .fixAbort := by
  unfold kindOf at hk
  repeat' split at hk
  all_goals simp_all

section Segment

variable {s s' : State} {p : Nat} {q q' : Port} {k : StepKind} {total : Bytes}

/-! ### What a reading step does to the packet -/

section Read

variable {update : Bytes → ListenState → ListenState} {r : ReadResult} {st : Stream}

/-- In ACCUMULATING, a step that leaves the error flag clear found it clear, and appended the bytes it read (R186,
R188). -/
theorem readUpdate_accumulating (hk : kindOf (stepKey s p q) = some k) (hu : readUpdate s.cfg k = some update)
    (hread : portStepRead s.cfg p q = some (r, st)) (hp : q.ls.phase = .accumulating)
    (hclear : (update r.bytes q.ls).error = false) :
    q.ls.error = false ∧ (update r.bytes q.ls).packet = q.ls.packet ++ r.bytes := by
  have nothingRead (he : stepEvent s p q = .empty) : q.ls.packet = q.ls.packet ++ r.bytes := by
    simp [portStepRead_of_stepEvent_empty he hread]
  have hrow := inRow_of_kindOf hk
  obtain rfl | rfl | rfl | rfl | rfl | rfl | rfl := kindOf_accumulating hk hp
  · cases hu
  · cases hu
    exact appendBounded_of_clear hclear
  · cases hu
    exact ⟨hclear, nothingRead hrow.1⟩
  · cases hu
    exact ⟨hclear, nothingRead hrow.1⟩
  · cases hu
    exact ⟨appendFixed_clear hclear, appendFixed_packet ..⟩
  · cases hu
    exact ⟨hclear, nothingRead hrow.1⟩
  · cases hu
    cases hclear

/-- In IDLE, where the packet is empty, a step leaves it empty, whatever it read (R184). -/
theorem readUpdate_idle (hk : kindOf (stepKey s p q) = some k) (hu : readUpdate s.cfg k = some update)
    (hp : q.ls.phase = .idle) (hpacket : q.ls.packet = []) (bs : Bytes) : (update bs q.ls).packet = [] := by
  obtain rfl | rfl | rfl := kindOf_idle hk hp
  · cases hu
  · cases hu
    exact hpacket
  · cases hu
    rfl

end Read

/-! ### The segment -/

/-- A port's packet is a segment of `total`, followed by what arrived at its stream since it was `q`. -/
def SegmentKept (total : Bytes) (p : Nat) (q q' : Port) : Prop :=
  ∃ arrived, SegmentInv (total ++ arrived) q' ∧ Arrived p q.stream arrived

/-- Nothing arrives where nothing is read. -/
theorem segmentKept_of_segmentInv (h : SegmentInv total q') : SegmentKept total p q q' :=
  ⟨[], by rwa [List.append_nil], .inl rfl⟩

/-- An empty packet is a segment anywhere. -/
theorem segmentInv_of_packet_nil (hsuffix : ∃ before, total = before ++ q.stream.content) (hp : q.ls.packet = []) :
    SegmentInv total q := by
  obtain ⟨before, h⟩ := hsuffix
  exact ⟨⟨before, h⟩, fun _ => ⟨before, by simp [hp, h]⟩⟩

/-- A port whose attempt has ended, with its stream as it was, keeps the segment. -/
theorem segmentInv_reset {run : RunState} (h : SegmentInv total q) :
    SegmentInv total { run := run, ls := ListenState.reset, stream := q.stream } :=
  segmentInv_of_packet_nil h.1 rfl

/-- A read keeps the segment: the bytes read leave the stream's front and, in ACCUMULATING, join the packet's end. -/
theorem segmentInv_read {update : Bytes → ListenState → ListenState} {r : ReadResult} {st : Stream}
    (hk : kindOf (stepKey s p q) = some k) (hu : readUpdate s.cfg k = some update)
    (hread : portStepRead s.cfg p q = some (r, st)) (hq : PortInv s.cfg q) (hseg : SegmentInv total q) :
    SegmentKept total p q { q with ls := update r.bytes q.ls, stream := st } := by
  obtain ⟨⟨before, hbefore⟩, hpacket⟩ := hseg
  obtain ⟨arrived, hbytes, harrived⟩ := portStepRead_arrived hread
  have hsuffix : total ++ arrived = before ++ r.bytes ++ st.content := by
    rw [hbefore, List.append_assoc, ← hbytes, List.append_assoc]
  refine ⟨arrived, ?_, harrived⟩
  cases hp : q.ls.phase with
  | idle =>
    obtain ⟨_, _, hidle, _⟩ := hq
    have hnil : q.ls.packet = [] := by rw [hidle hp]; rfl
    exact segmentInv_of_packet_nil ⟨_, hsuffix⟩ (readUpdate_idle hk hu hp hnil r.bytes)
  | accumulating =>
    refine ⟨⟨_, hsuffix⟩, fun hclear => ?_⟩
    obtain ⟨hfound, happend⟩ := readUpdate_accumulating hk hu hread hp hclear
    obtain ⟨before', hbefore'⟩ := hpacket hfound
    refine ⟨before', ?_⟩
    simp only [happend]
    rw [hbefore', List.append_assoc, ← hbytes]
    simp only [List.append_assoc]
  | ready => rw [portStepRead_none.mpr hp] at hread; cases hread

/-- A step of a port keeps its segment. -/
theorem PortStepped.segment (h : PortStepped s p k q s') (hq : PortInv s.cfg q) (hq' : s'.ports[p]? = some q')
    (hseg : SegmentInv total q) : SegmentKept total p q q' := by
  obtain ⟨hport, _, hk, heffect⟩ := h
  cases heffect with
  | stop =>
    rw [State.setPort_self _ _ _ hport] at hq'
    cases hq'
    exact segmentKept_of_segmentInv hseg
  | read hu hread =>
    rw [State.setPort_self _ _ _ hport] at hq'
    cases hq'
    exact segmentInv_read hk hu hread hq hseg
  | discard =>
    rw [State.setPort_self _ _ _ hport] at hq'
    cases hq'
    exact segmentKept_of_segmentInv (segmentInv_reset hseg)
  | accept =>
    rw [State.setPort_self _ _ _ (by simpa using hport)] at hq'
    cases hq'
    exact segmentKept_of_segmentInv (segmentInv_reset hseg)
  | hold =>
    cases hport.symm.trans hq'
    exact segmentKept_of_segmentInv hseg

/-- An instruction keeps every port's segment. -/
theorem exec_segment {i : Instr} (h : exec i s = .next s') (hinv : s.Inv) (hq : s.ports[p]? = some q)
    (hq' : s'.ports[p]? = some q') (hseg : SegmentInv total q) : SegmentKept total p q q' := by
  have untouched (hsame : s'.ports[p]? = s.ports[p]?) : SegmentKept total p q q' := by
    cases hq.symm.trans (hsame.symm.trans hq')
    exact segmentKept_of_segmentInv hseg
  obtain ⟨r, rfl, _⟩ | ⟨k, p₀, q₀, _, hstep⟩ := exec_next h
  · exact untouched rfl
  · by_cases hp : p₀ = p
    · subst hp
      cases hq.symm.trans hstep.port
      obtain ⟨_, _, hports, _⟩ := hinv
      exact hstep.segment (hports q (List.mem_of_getElem? hq)) hq' hseg
    · exact untouched (hstep.other hp)

/-- A port keeps its byte source over a reset, and is in IDLE after it (R250). -/
theorem applyReset_port {c : Cfg} (hq : s.ports[p]? = some q) (hq' : (applyReset c s).ports[p]? = some q') :
    q'.ls = ListenState.reset ∧ q'.stream = q.stream := by
  obtain ⟨hp, rfl⟩ := List.getElem?_eq_some_iff.mp hq'
  simp only [applyReset, List.getElem_map, List.getElem_range, resetPort_ls, resetPort_stream, streams_of_port hq,
    and_self]

/-- A step that takes an ACCUMULATING port, whose stream lists something, to one without the error flag moves bytes from
the stream's front to the packet's end. -/
theorem PortStepped.packet_append_content (h : PortStepped s p k q s') (hq' : s'.ports[p]? = some q')
    (hp : q.ls.phase = .accumulating) (hst : q.stream.tape ≠ []) (hclear : q'.ls.error = false) :
    q'.ls.packet ++ q'.stream.content = q.ls.packet ++ q.stream.content := by
  obtain ⟨hport, _, hk, heffect⟩ := h
  have hrows := kindOf_accumulating hk hp
  cases heffect with
  | stop =>
    rw [State.setPort_self _ _ _ hport] at hq'
    cases hq'
    rfl
  | read hu hread =>
    rw [State.setPort_self _ _ _ hport] at hq'
    cases hq'
    obtain ⟨arrived, hbytes, harrived⟩ := portStepRead_arrived hread
    rw [harrived.eq_nil hst, List.append_nil] at hbytes
    obtain ⟨_, happend⟩ := readUpdate_accumulating hk hu hread hp hclear
    rw [happend, List.append_assoc, hbytes]
  | discard hd => obtain rfl | rfl | rfl := hd <;> simp at hrows
  | accept => simp at hrows
  | hold => simp at hrows

end Segment

/-! ### The statement -/

/-- Settles O40: a turn leaves the ports, and each of its effects keeps the segment; a reset empties the packet and
leaves the stream. -/
theorem packetIsTheStreamInOrder : Obligations.PacketIsTheStreamInOrder := by
  refine ⟨fun q hp => segmentInv_of_packet_nil ⟨[], rfl⟩ hp, fun s s' p q q' total hinv h hq hq' hseg => ?_,
    fun s s' k p q q' h hq hq' hp hst hclear => ?_⟩
  · obtain ⟨_, b, hb, heffect⟩ := step_next h
    obtain ⟨hcfg, hports, _, hsink⟩ := hb.frame
    have hqb : b.ports[p]? = some q := by rw [hports, hq]
    cases heffect with
    | idle => cases hqb.symm.trans hq'; exact segmentKept_of_segmentInv hseg
    | shutdown => cases hqb.symm.trans hq'; exact segmentKept_of_segmentInv hseg
    | reset =>
      obtain ⟨hls, hstream⟩ := applyReset_port hqb hq'
      exact segmentKept_of_segmentInv (segmentInv_of_packet_nil (hstream ▸ hseg.1) (by rw [hls]; rfl))
    | exec hexec => exact exec_segment hexec (State.inv_of_same hinv hcfg hports hsink) hqb hq' hseg
  · obtain ⟨q₀, hstep⟩ := exec_stepKind_next h
    cases hq.symm.trans hstep.port
    exact hstep.packet_append_content hq' hp hst hclear

end Sys2Proof.Machine
end

section
/-! SUPPORT. The CRC, codec and function-code operations as answers to their caller (spec/20_memory.md R56, R61), and
the payload layouts of the function codes read back from their fields (spec/30_encoding.md R74 to R76, R187). Settles
O19, O23 and O25. -/

namespace Sys2Proof.Machine

/-! ### Operations and step kinds -/

/-- What an operation does is fixed by its operands: it answers one value, or it is refused, whatever the state. -/
def IsOperation (i : Instr) : Prop :=
  (∃ r, ∀ t : State, exec i t = answer r t) ∨ ∃ e, ∀ t : State, exec i t = .refused e

/-- A decoder answers a frame or a FrameError (R121). -/
theorem isOperation_decodeRtu (b : Bytes) : IsOperation (.decodeRtu b) := by
  cases h : decodeRtu b with
  | ok f => exact .inl ⟨.frame (.rtu f), fun t => by simp only [exec, execDecodeRtu, h]⟩
  | error e => exact .inl ⟨.frameError e, fun t => by simp only [exec, execDecodeRtu, h, raiseFrameError]⟩

/-- A decoder answers a frame or a FrameError (R141). -/
theorem isOperation_decodeTcp (b : Bytes) : IsOperation (.decodeTcp b) := by
  cases h : decodeTcp b with
  | ok f => exact .inl ⟨.frame (.tcp f), fun t => by simp only [exec, execDecodeTcp, h]⟩
  | error e => exact .inl ⟨.frameError e, fun t => by simp only [exec, execDecodeTcp, h, raiseFrameError]⟩

/-- SET_EXCEPTION is refused for its code alone (R164). -/
theorem isOperation_setException (f : Frame) (e : Byte) : IsOperation (.setException f e) := by
  by_cases he : e = 0#8
  · exact .inr ⟨.successIsNotAnException, fun t => by simp only [exec, execSetException, if_pos he]⟩
  · exact .inl ⟨.frame (setException f e), fun t => by simp only [exec, execSetException, if_neg he]⟩

/-- TO_BYTES is refused for its frame alone (R142, R166). -/
theorem isOperation_toBytes (f : Frame) : IsOperation (.toBytes f) := by
  cases h : toBytes f with
  | some bs => exact .inl ⟨.bytes bs, fun t => by simp only [exec, execToBytes, h]⟩
  | none => exact .inr ⟨.tcpPayloadTooLong, fun t => by simp only [exec, execToBytes, h]⟩

/-- Every instruction that is not encoded as a selector is an operation (R85, R86). -/
theorem isOperation_of_encode_ne_select {i : Instr} (h : ∀ key p, encode i ≠ .select key p) : IsOperation i := by
  cases i with
  | crc16 b => exact .inl ⟨_, fun _ => rfl⟩
  | validate f => exact .inl ⟨_, fun _ => rfl⟩
  | decodeRtu b => exact isOperation_decodeRtu b
  | decodeTcp b => exact isOperation_decodeTcp b
  | getAddress f => exact .inl ⟨_, fun _ => rfl⟩
  | getFunction f => exact .inl ⟨_, fun _ => rfl⟩
  | getPayload f => exact .inl ⟨_, fun _ => rfl⟩
  | setPayload f payload => exact .inl ⟨_, fun _ => rfl⟩
  | setException f e => exact isOperation_setException f e
  | copyAsResponse f => exact .inl ⟨_, fun _ => rfl⟩
  | toBytes f => exact isOperation_toBytes f
  | raShutdown p => exact absurd rfl (h _ p)
  | raIdleDrain p => exact absurd rfl (h _ p)
  | raIdleAdvance p => exact absurd rfl (h _ p)
  | raSilAppend p => exact absurd rfl (h _ p)
  | raSilWait p => exact absurd rfl (h _ p)
  | raSilBoundary p => exact absurd rfl (h _ p)
  | raFixAppend p => exact absurd rfl (h _ p)
  | raFixWait p => exact absurd rfl (h _ p)
  | raFixAbort p => exact absurd rfl (h _ p)
  | raReadyError p => exact absurd rfl (h _ p)
  | raReadyInvalid p => exact absurd rfl (h _ p)
  | raReadyEmit p => exact absurd rfl (h _ p)
  | raReadyBcastDrop p => exact absurd rfl (h _ p)
  | fc01ReadCoils payload => exact .inl ⟨_, fun _ => rfl⟩
  | fc02ReadDiscreteInputs payload => exact .inl ⟨_, fun _ => rfl⟩
  | fc03ReadHoldingRegisters payload => exact .inl ⟨_, fun _ => rfl⟩
  | fc04ReadInputRegisters payload => exact .inl ⟨_, fun _ => rfl⟩
  | fc05WriteSingleCoil payload => exact .inl ⟨_, fun _ => rfl⟩
  | fc06WriteHoldingRegister payload => exact .inl ⟨_, fun _ => rfl⟩
  | fc0FWriteMultipleCoils payload => exact .inl ⟨_, fun _ => rfl⟩
  | fc10WriteMultipleHoldingRegisters payload => exact .inl ⟨_, fun _ => rfl⟩
  | fcException function payload => exact .inl ⟨_, fun _ => rfl⟩
  | fcOther function payload => exact .inl ⟨_, fun _ => rfl⟩

/-! ### Payloads, written from their fields -/

/-- The high byte, as a shift (R13, R53). -/
theorem shift_setWidth_eq_hi8 (v : U16) : (v >>> 8).setWidth 8 = hi8 v := by
  apply BitVec.eq_of_getLsbD_eq
  intro i hi
  simp [hi8, hi]

/-- The low byte, as a truncation (R13, R53). -/
theorem setWidth_eq_lo8 (v : U16) : v.setWidth 8 = lo8 v := by
  apply BitVec.eq_of_getLsbD_eq
  intro i hi
  simp [lo8, hi]

/-- The two bytes of a word, written out (R53). -/
theorem shift_setWidth_pair_eq_be16 (v : U16) : [(v >>> 8).setWidth 8, v.setWidth 8] = be16 v := by
  rw [shift_setWidth_eq_hi8, setWidth_eq_lo8, be16]

/-- The byte string of words, written out (R53). -/
theorem flatMap_shift_setWidth_eq_wordBytesBe (ws : List U16) :
    (ws.flatMap fun (w : U16) => [(w >>> 8).setWidth 8, w.setWidth 8]) = wordBytesBe ws :=
  congrArg (ws.flatMap ·) (funext shift_setWidth_pair_eq_be16)

/-- The payload that names a range: start and count, each high byte first (R75, R76). -/
def rangePayload (start count : U16) : Bytes := be16 start ++ be16 count

/-- The payload of byteCount data bytes (R76). -/
def countedPayload (data : Bytes) : Bytes := BitVec.ofNat 8 data.length :: data

/-- The payload of a request of code 15 or 16 (R75). -/
def writePayload (start count : U16) (data : Bytes) : Bytes := rangePayload start count ++ countedPayload data

/-- A range, written out. -/
theorem shift_setWidth_pairs_eq_rangePayload (start count : U16) :
    [(start >>> 8).setWidth 8, start.setWidth 8, (count >>> 8).setWidth 8, count.setWidth 8] =
      rangePayload start count := by
  rw [rangePayload, ← shift_setWidth_pair_eq_be16, ← shift_setWidth_pair_eq_be16]
  rfl

/-- A request of code 15 or 16, written out. -/
theorem shift_setWidth_pairs_eq_writePayload (start count : U16) (data : Bytes) :
    [(start >>> 8).setWidth 8, start.setWidth 8, (count >>> 8).setWidth 8, count.setWidth 8,
      BitVec.ofNat 8 data.length] ++ data = writePayload start count data := by
  rw [writePayload, ← shift_setWidth_pairs_eq_rangePayload]
  rfl

section Payload

variable (start count : U16) (data rest : Bytes)

@[simp] theorem rangePayload_length : (rangePayload start count).length = 4 := rfl

@[simp] theorem rangePayload_start : u16be (rangePayload start count ++ rest) 0 = start := join16_lo8_hi8 start
@[simp] theorem rangePayload_count : u16be (rangePayload start count ++ rest) 2 = count := join16_lo8_hi8 count

@[simp] theorem countedPayload_byteCount : byteAt (countedPayload data) 0 = BitVec.ofNat 8 data.length := rfl
@[simp] theorem countedPayload_data : (countedPayload data).tail = data := rfl
@[simp] theorem countedPayload_length : (countedPayload data).length = data.length + 1 := rfl

@[simp] theorem writePayload_start : u16be (writePayload start count data) 0 = start := rangePayload_start ..
@[simp] theorem writePayload_count : u16be (writePayload start count data) 2 = count := rangePayload_count ..
@[simp] theorem writePayload_byteCount : byteAt (writePayload start count data) 4 = BitVec.ofNat 8 data.length := rfl
@[simp] theorem writePayload_data : (writePayload start count data).drop 5 = data := rfl
@[simp] theorem writePayload_range : (writePayload start count data).take 4 = rangePayload start count := rfl
@[simp] theorem writePayload_length : (writePayload start count data).length = data.length + 5 := rfl

variable {data}

/-- A length below 256 is its own byte. -/
theorem toNat_ofNat_length (h : data.length < 256) : (BitVec.ofNat 8 data.length).toNat = data.length := by
  rw [BitVec.toNat_ofNat]
  exact Nat.mod_eq_of_lt h

theorem hasDataBytes_writePayload (h : data.length < 256) : hasDataBytes (writePayload start count data) = true := by
  rw [hasDataBytes, writePayload_length, writePayload_byteCount, toNat_ofNat_length h, decide_eq_true_iff]
  omega

theorem hasCountedBytes_countedPayload (h : data.length < 256) : hasCountedBytes (countedPayload data) = true := by
  rw [hasCountedBytes, countedPayload_length, countedPayload_byteCount, toNat_ofNat_length h, decide_eq_true_iff]
  omega

end Payload

/-! ### Packed coils and words -/

/-- Reading coils answers bits where these are `count` bits, and the data are ceil(count / 8) bytes that hold them from
bit 0 of the first byte on, with padding bits 0 (R76; log entry 15). -/
theorem coilsOf_eq_some_iff_bits {count : Nat} {data : Bytes} {bits : List Bool} :
    coilsOf count data = some bits ↔ bits.length = count ∧ data.length = (count + 7) / 8 ∧
      ∀ i, i < 8 * data.length → (data.getD (i / 8) 0#8).getLsbD (i % 8) = bits.getD i false := by
  rw [coilsOf_eq_some]
  refine and_congr_right fun hcount => ?_
  subst hcount
  constructor
  · rintro rfl
    exact ⟨packBits_length bits, packBits_bit bits⟩
  · rintro ⟨hlen, hbits⟩
    have hpack : data.length = (packBits bits).length := hlen.trans (packBits_length bits).symm
    exact eq_of_bits hpack fun i hi => (hbits i hi).trans (packBits_bit bits i (hpack ▸ hi)).symm

/-- An odd number of bytes holds no words. -/
theorem beWords_eq_none_of_odd {data : Bytes} (h : data.length % 2 = 1) : beWords data = none := by
  rw [Option.eq_none_iff_forall_ne_some]
  intro ws hws
  rw [beWords_eq_some.mp hws, wordBytesBe_length] at h
  omega

/-! ### The forms of codes 15 and 16 -/

section WriteMultiple

variable (start count : U16) {data : Bytes}

/-- The request fields of code 15 (R75). -/
theorem requestFields_writeCoils (h : data.length < 256) : requestFields 0x0F (writePayload start count data) =
    some (.writeCoils start count (BitVec.ofNat 8 data.length) data (coilsOf count.toNat data)) := by
  simp [requestFields, hasDataBytes_writePayload start count h]

/-- The request fields of code 16 (R75). -/
theorem requestFields_writeRegisters (h : data.length < 256) : requestFields 0x10 (writePayload start count data) =
    some (.writeRegisters start count (BitVec.ofNat 8 data.length) data (beWords data)) := by
  simp [requestFields, hasDataBytes_writePayload start count h]

/-- Codes 15 and 16 echo the range of the request (R74, R76). -/
theorem echoPayload_writeCoils (h : data.length < 256) :
    echoPayload 0x0F (writePayload start count data) = some (rangePayload start count) := by
  rw [echoPayload, requestFields_writeCoils start count h, writePayload_range]

/-- Codes 15 and 16 echo the range of the request (R74, R76). -/
theorem echoPayload_writeRegisters (h : data.length < 256) :
    echoPayload 0x10 (writePayload start count data) = some (rangePayload start count) := by
  rw [echoPayload, requestFields_writeRegisters start count h, writePayload_range]

/-- The length that FIXED_PREFIX gives a request of code 15 or 16 (R187). -/
theorem pduFrameLen_writePayload {function : Byte} (hf : hasByteCount function = true) (h : data.length < 256) :
    pduFrameLen function (writePayload start count data) = some (9 + data.length) := by
  rw [pduFrameLen, if_pos hf, writePayload_length, if_pos (by omega), writePayload_byteCount, toNat_ofNat_length h]

end WriteMultiple

/-! ### The response layouts -/

section Response

variable {function : Byte} {data : Bytes}

/-- The response of codes 1 and 2 (R76). -/
theorem responseFields_coils (hf : function = 0x01 ∨ function = 0x02) (h : data.length < 256) :
    responseFields function (countedPayload data) =
      some (.coils (BitVec.ofNat 8 data.length) data (unpackBits data)) := by
  have hcounted := hasCountedBytes_countedPayload h
  obtain rfl | rfl := hf <;> simp [responseFields, hcounted]

/-- The response of codes 3 and 4, whose data are whole words (R76). -/
theorem responseFields_registers (hf : function = 0x03 ∨ function = 0x04) (h : data.length < 256) :
    responseFields function (countedPayload data) =
      (beWords data).map (.registers (BitVec.ofNat 8 data.length)) := by
  have hcounted := hasCountedBytes_countedPayload h
  obtain rfl | rfl := hf <;> cases hws : beWords data <;> simp [responseFields, hcounted, hws]

/-- The response of codes 15 and 16 (R76). -/
theorem responseFields_range (hf : function = 0x0F ∨ function = 0x10) (start count : U16) :
    responseFields function (rangePayload start count) = some (.echoRange start count) := by
  have hstart : u16be (rangePayload start count) 0 = start := rangePayload_start start count []
  have hcount : u16be (rangePayload start count) 2 = count := rangePayload_count start count []
  obtain rfl | rfl := hf <;> simp [responseFields, hstart, hcount]

end Response

/-! ### The statements -/

/-- Settles O19: an instruction with another encoding than a selector is an operation, so its value is the same in every
state. -/
theorem codecOperationsArePure : Obligations.CodecOperationsArePure := by
  intro i s s' hi h
  obtain hanswer | ⟨e, hrefused⟩ := isOperation_of_encode_ne_select hi
  · exact hanswer
  · cases (hrefused s).symm.trans h

/-- Settles O23: the payload is read back into the fields it was written from. -/
theorem writeMultipleForms : Obligations.WriteMultipleForms := by
  intro start count data s hdata
  simp only [shift_setWidth_pairs_eq_writePayload, shift_setWidth_pairs_eq_rangePayload,
    flatMap_shift_setWidth_eq_wordBytesBe]
  exact ⟨⟨pduView 0x0F (writePayload start count data), coilsOf count.toNat data, rfl, rfl, rfl,
      requestFields_writeCoils start count hdata, fun _ => coilsOf_eq_some_iff_bits,
      echoPayload_writeCoils start count hdata, pduFrameLen_writePayload (function := 0x0F) start count rfl hdata⟩,
    pduView 0x10 (writePayload start count data), beWords data, rfl, rfl, rfl,
    requestFields_writeRegisters start count hdata, fun _ => beWords_eq_some,
    echoPayload_writeRegisters start count hdata, pduFrameLen_writePayload (function := 0x10) start count rfl hdata⟩

/-- One of two function-code forms answers the view of its function byte. -/
theorem exec_form_of_mem {x f g : Bytes → Instr} {a b : Byte}
    (hf : ∀ payload s, exec (f payload) s = answerForm a payload s)
    (hg : ∀ payload s, exec (g payload) s = answerForm b payload s) (hx : x ∈ [f, g]) :
    ∃ function, (function = a ∨ function = b) ∧ ∀ payload s, exec (x payload) s = answerForm function payload s := by
  obtain rfl | rfl := List.mem_pair.mp hx
  · exact ⟨a, .inl rfl, hf⟩
  · exact ⟨b, .inr rfl, hg⟩

/-- Settles O25: the data, words and range are read back from the payload they were written to. -/
theorem responseForms : Obligations.ResponseForms := by
  refine ⟨fun x hx data s hdata => ?_, fun x hx s => ?_, fun x hx start count s => ?_⟩
  · obtain ⟨function, hf, hexec⟩ := exec_form_of_mem (a := 0x01) (b := 0x02) (fun _ _ => rfl) (fun _ _ => rfl) hx
    exact ⟨_, unpackBits data, hexec (countedPayload data) s, responseFields_coils hf hdata, unpackBits_length data,
      unpackBits_getElem? data⟩
  · obtain ⟨function, hf, hexec⟩ := exec_form_of_mem (a := 0x03) (b := 0x04) (fun _ _ => rfl) (fun _ _ => rfl) hx
    refine ⟨fun ws hws => ?_, fun data hdata hodd => ⟨_, hexec (countedPayload data) s, ?_⟩⟩
    · have hresponse := responseFields_registers (data := wordBytesBe ws) hf (by rw [wordBytesBe_length]; omega)
      rw [beWords_wordBytesBe] at hresponse
      rw [flatMap_shift_setWidth_eq_wordBytesBe, ← wordBytesBe_length]
      exact ⟨_, hexec (countedPayload (wordBytesBe ws)) s, hresponse⟩
    · have hresponse := responseFields_registers hf hdata
      rwa [beWords_eq_none_of_odd hodd] at hresponse
  · obtain ⟨function, hf, hexec⟩ := exec_form_of_mem (a := 0x0F) (b := 0x10) (fun _ _ => rfl) (fun _ _ => rfl) hx
    rw [shift_setWidth_pairs_eq_rangePayload]
    exact ⟨_, hexec (rangePayload start count) s, responseFields_range hf start count⟩

end Sys2Proof.Machine
end

section
/-! SUPPORT. The encoder and the decoder are inverse: operand by operand, then command by command, function byte by
function byte and row by row (spec/30_encoding.md R74, R79, R85, R86). Settles O57, O58, O59, O60 and O41. -/

namespace Sys2Proof

/-! ### Readers -/

/-- A reader takes off the front exactly what `put` writes for the well-formed values: its answer is one of them, and
what it took are the bytes written for it. -/
def Reader.Reads {α : Type} (r : Reader α) (wf : α → Prop) (put : α → Bytes) : Prop :=
  ∀ bs a rest, r bs = .ok (a, rest) ↔ wf a ∧ bs = put a ++ rest

section Readers

variable {α β γ : Type} {r : Reader α} {r' : Reader β} {wf : α → Prop} {wf' : β → Prop}
  {put : α → Bytes} {put' : β → Bytes} {a : α} {b : β} {bs rest : Bytes}

/-- What a sequence of readers answers. -/
theorem Reader.andThen_eq_ok {f : α → Reader β} :
    r.andThen f bs = .ok (b, rest) ↔ ∃ a mid, r bs = .ok (a, mid) ∧ f a mid = .ok (b, rest) := by
  unfold Reader.andThen
  cases r bs with
  | ok x => simp [Prod.ext_iff, and_assoc]
  | error e => simp

/-- What a mapped reader answers. -/
theorem Reader.map_eq_ok {f : α → β} : r.map f bs = .ok (b, rest) ↔ ∃ a, r bs = .ok (a, rest) ∧ f a = b := by
  unfold Reader.map
  cases r bs with
  | ok x => simp [Prod.ext_iff, and_comm]
  | error e => simp

/-- What one operand answers, as a command. -/
theorem Reader.Reads.map_eq_ok (h : r.Reads wf put) {f : α → γ} {c : γ} :
    r.map f bs = .ok (c, rest) ↔ ∃ a, wf a ∧ bs = put a ++ rest ∧ f a = c := by
  simp only [Reader.map_eq_ok, h bs, and_assoc]

/-- What two operands answer, as a command. -/
theorem Reader.Reads.andThen_map_eq_ok (h : r.Reads wf put) (h' : r'.Reads wf' put') {f : α → β → γ} {c : γ} :
    (r.andThen fun a => r'.map (f a)) bs = .ok (c, rest) ↔
      ∃ a b, wf a ∧ wf' b ∧ bs = put a ++ (put' b ++ rest) ∧ f a b = c := by
  simp only [Reader.andThen_eq_ok, h'.map_eq_ok, h bs]
  constructor
  · rintro ⟨a, _, ⟨hwf, rfl⟩, b, hwf', rfl, hf⟩
    exact ⟨a, b, hwf, hwf', rfl, hf⟩
  · rintro ⟨a, b, hwf, hwf', rfl, hf⟩
    exact ⟨a, _, ⟨hwf, rfl⟩, b, hwf', rfl, hf⟩

end Readers

/-! ### Operands (log entry 2) -/

theorem reads_readByte : readByte.Reads (fun _ => True) ([·]) := by
  intro bs b rest
  cases bs <;> simp [readByte]

theorem reads_readWord : readWord.Reads (fun _ => True) Machine.be16 := by
  intro bs w rest
  match bs with
  | [] => simp [readWord, Machine.be16]
  | [_] => simp [readWord, Machine.be16]
  | hi :: lo :: tail =>
    constructor
    · intro h
      cases h
      simp
    · rintro ⟨-, h⟩
      cases h
      simp [readWord]

theorem reads_readBytes : readBytes.Reads (fun _ => True) putBytes := by
  intro bs pl rest
  constructor
  · intro h
    induction bs using readBytes.induct generalizing pl with
    | case1 => cases h
    | case2 => cases h; exact ⟨trivial, rfl⟩
    | case3 => cases h
    | case4 m h0 h1 => simp only [readBytes, if_neg h0, if_neg h1] at h; cases h
    | case5 b tail => simp only [readBytes, if_true] at h; cases h; exact ⟨trivial, rfl⟩
    | case6 b tail bs' r hr _ ih =>
      simp only [readBytes, hr] at h
      cases h
      exact ⟨trivial, congrArg (1 :: b :: ·) (ih bs' hr).2⟩
    | case7 b tail e he _ _ => simp [readBytes, he] at h
    | case8 m b tail h0 h1 => simp only [readBytes, if_neg h0, if_neg h1] at h; cases h
  · rintro ⟨-, rfl⟩
    induction pl with
    | nil => cases rest <;> simp [putBytes, readBytes]
    | cons b pl ih => simp [putBytes, readBytes, ih]

/-- An RTU frame that was read has the CRC that R23 fixes. -/
theorem reads_readRtu :
    readRtu.Reads (·.wellFormed = true) fun f => f.address :: f.function :: putBytes f.payload := by
  intro bs f rest
  simp only [readRtu, Reader.andThen_eq_ok, reads_readBytes.map_eq_ok, reads_readByte _ _ _, true_and]
  constructor
  · rintro ⟨a, _, rfl, fn, _, rfl, pl, rfl, rfl⟩
    simp [RtuFrame.wellFormed]
  · rintro ⟨hwf, rfl⟩
    obtain ⟨a, fn, pl, crc⟩ := f
    obtain rfl : crc = Machine.bodyCrc a fn pl := eq_of_beq hwf
    exact ⟨a, _, rfl, fn, _, rfl, pl, rfl, rfl⟩

theorem reads_readTcp : readTcp.Reads (fun _ => True) fun f =>
    Machine.be16 f.transactionId ++ Machine.be16 f.protocolId ++ (f.unitId :: f.function :: putBytes f.payload) := by
  intro bs f rest
  simp only [readTcp, Reader.andThen_eq_ok, reads_readBytes.map_eq_ok, reads_readByte _ _ _, reads_readWord _ _ _,
    true_and]
  constructor
  · rintro ⟨t, _, rfl, pr, _, rfl, u, _, rfl, fn, _, rfl, pl, rfl, rfl⟩
    simp
  · rintro rfl
    exact ⟨_, _, rfl, _, _, rfl, _, _, rfl, _, _, rfl, _, rfl, rfl⟩

theorem reads_readFrame : readFrame.Reads (·.wellFormed = true) putFrame := by
  intro bs f rest
  simp only [readFrame, Reader.andThen_eq_ok, reads_readByte _ _ _, true_and]
  constructor
  · rintro ⟨tag, tail, rfl, h⟩
    split at h
    · next htag =>
      obtain ⟨g, hwf, rfl, rfl⟩ := reads_readRtu.map_eq_ok.mp h
      exact ⟨hwf, by rw [htag]; rfl⟩
    · split at h
      · next htag =>
        obtain ⟨g, -, rfl, rfl⟩ := reads_readTcp.map_eq_ok.mp h
        exact ⟨rfl, by rw [htag]; rfl⟩
      · cases h
  · rintro ⟨hwf, rfl⟩
    cases f with
    | rtu g => exact ⟨0, _, rfl, reads_readRtu.map_eq_ok.mpr ⟨g, hwf, rfl, rfl⟩⟩
    | tcp g => exact ⟨1, _, rfl, reads_readTcp.map_eq_ok.mpr ⟨g, trivial, rfl, rfl⟩⟩

/-! ### Commands (R85) -/

/-- The command codes that R85 assigns. -/
def assignedCodes : List Byte := [0x01, 0x02, 0x10, 0x11, 0x20, 0x21, 0x22, 0x28, 0x29, 0x2A, 0x30]

/-- A byte outside a list of bytes has none of their numbers. -/
theorem toNat_not_mem_map {b : Byte} {l : List Byte} (h : b ∉ l) : b.toNat ∉ l.map BitVec.toNat := by
  simpa [BitVec.toNat_inj] using h

/-- Every other code byte is refused by name, whatever follows it. -/
theorem readOperands_of_not_assigned {code : Byte} (h : code ∉ assignedCodes) (bs : Bytes) :
    readOperands code bs = .error (.unassigned code) := by
  have hn := toNat_not_mem_map h
  suffices readOperands code = fun _ => .error (.unassigned code) from congrFun this bs
  unfold readOperands
  split
  case h_12 => rfl
  all_goals simp_all [assignedCodes]

/-- A command decodes where the operands of its code are read to the end of its bytes. -/
theorem decode_command_eq_ok {code : Byte} {bs : Bytes} {i : Instr} :
    decode (.command (code :: bs)) = .ok i ↔ readOperands code bs = .ok (i, []) := by
  simp only [decode, decodeCommand, readCommand]
  cases readOperands code bs with
  | error e => simp
  | ok x =>
    obtain ⟨j, rest⟩ := x
    cases rest <;> simp

section Commands

variable {α : Type} {r : Reader α} {wf : α → Prop} {put : α → Bytes} {mk : α → Instr} {code : Byte} {bs : Bytes}
  {i : Instr}

/-- The bytes written for a command's operand decode to the command. -/
theorem Reader.Reads.decode_command {a : α} (h : r.Reads wf put) (hcode : readOperands code = r.map mk) (ha : wf a) :
    decode (.command (code :: put a)) = .ok (mk a) := by
  rw [decode_command_eq_ok, hcode]
  exact h.map_eq_ok.mpr ⟨a, ha, (List.append_nil _).symm, rfl⟩

/-- A command whose operand was read is the encoding of the instruction it makes. -/
theorem Reader.Reads.encode_command (h : r.Reads wf put) (hwf : ∀ a, wf a → (mk a).wellFormed = true)
    (hencode : ∀ a, encode (mk a) = .command (code :: put a)) (hread : r.map mk bs = .ok (i, [])) :
    i.wellFormed = true ∧ encode i = .command (code :: bs) := by
  obtain ⟨a, ha, rfl, rfl⟩ := h.map_eq_ok.mp hread
  exact ⟨hwf a ha, by rw [hencode, List.append_nil]⟩

/-- A command whose operands are read to their end is the encoding of the well-formed instruction they make. -/
theorem encode_of_readOperands (h : readOperands code bs = .ok (i, [])) :
    i.wellFormed = true ∧ encode i = .command (code :: bs) := by
  have hcode : code ∈ assignedCodes := by
    by_contra hn
    cases (readOperands_of_not_assigned hn bs).symm.trans h
  simp only [assignedCodes, List.mem_cons, List.not_mem_nil, or_false] at hcode
  obtain rfl | rfl | rfl | rfl | rfl | rfl | rfl | rfl | rfl | rfl | rfl := hcode
  · exact reads_readBytes.encode_command (mk := .crc16) (fun _ _ => rfl) (fun _ => rfl) h
  · exact reads_readBytes.encode_command (mk := .validate) (fun _ _ => rfl) (fun _ => rfl) h
  · exact reads_readBytes.encode_command (mk := .decodeRtu) (fun _ _ => rfl) (fun _ => rfl) h
  · exact reads_readBytes.encode_command (mk := .decodeTcp) (fun _ _ => rfl) (fun _ => rfl) h
  · exact reads_readFrame.encode_command (mk := .getAddress) (fun _ hf => hf) (fun _ => rfl) h
  · exact reads_readFrame.encode_command (mk := .getFunction) (fun _ hf => hf) (fun _ => rfl) h
  · exact reads_readFrame.encode_command (mk := .getPayload) (fun _ hf => hf) (fun _ => rfl) h
  · obtain ⟨f, pl, hf, -, rfl, rfl⟩ := (reads_readFrame.andThen_map_eq_ok reads_readBytes).mp h
    exact ⟨hf, by rw [List.append_nil]; rfl⟩
  · obtain ⟨f, e, hf, -, rfl, rfl⟩ := (reads_readFrame.andThen_map_eq_ok reads_readByte).mp h
    exact ⟨hf, rfl⟩
  · exact reads_readFrame.encode_command (mk := .copyAsResponse) (fun _ hf => hf) (fun _ => rfl) h
  · exact reads_readFrame.encode_command (mk := .toBytes) (fun _ hf => hf) (fun _ => rfl) h

end Commands

/-! ### Function bytes (R74, R77, R79) -/

/-- A function byte without a row of its own has the exception form or the other form. -/
theorem functionForm_of_not_listed {function : Byte} (h : function ∉ listedFunctions) (payload : Bytes) :
    functionForm function payload =
      if exceptionByte function then .fcException function payload else .fcOther function payload := by
  have hn := toNat_not_mem_map h
  unfold functionForm
  split
  case h_9 => rfl
  all_goals simp_all [listedFunctions]

/-- No function byte with bit 7 set has a row of its own. -/
theorem not_listed_of_exceptionByte {function : Byte} (h : exceptionByte function = true) :
    function ∉ listedFunctions := by
  have hlisted : ∀ f ∈ listedFunctions, exceptionByte f = false := by decide
  intro hf
  cases h.symm.trans (hlisted function hf)

/-- A function byte with bit 7 set has the exception form. -/
theorem functionForm_of_exceptionByte {function : Byte} (h : exceptionByte function = true) (payload : Bytes) :
    functionForm function payload = .fcException function payload := by
  rw [functionForm_of_not_listed (not_listed_of_exceptionByte h), if_pos h]

/-- The form of every function byte is well-formed, and its encoding is the PDU. -/
theorem encode_functionForm (function : Byte) (payload : Bytes) :
    (functionForm function payload).wellFormed = true ∧
      encode (functionForm function payload) = .pdu (function :: payload) := by
  by_cases h : function ∈ listedFunctions
  · simp only [listedFunctions, List.mem_cons, List.not_mem_nil, or_false] at h
    obtain rfl | rfl | rfl | rfl | rfl | rfl | rfl | rfl := h <;> exact ⟨rfl, rfl⟩
  · rw [functionForm_of_not_listed h]
    cases hbit : exceptionByte function <;> simp [Instr.wellFormed, encode, hbit, h]

/-! ### Step kinds (R86) -/

/-- The selector that the encoder names for a row falls under that row. -/
theorem kindOf_keyOf (k : StepKind) : kindOf (keyOf k) = some k := by
  cases k <;> rfl

/-- The encoding of a step kind's instruction decodes to it. -/
theorem decode_keyOf (k : StepKind) (p : Nat) : decode (.select (keyOf k) p) = .ok (k.instr p) :=
  Machine.decode_select (kindOf_keyOf k) p

/-- A selector that has the columns of a row selects it. -/
theorem kindOf_of_inRow {key : StepKey} {k : StepKind} (h : key.InRow k) : kindOf key = some k := by
  cases k
  case readyEmit =>
    obtain ⟨he, hp, herror, hv | ⟨hv, hb⟩⟩ := h
    · simp [kindOf, he, hp, herror, hv]
    · simp [kindOf, he, hp, herror, hv, hb]
  all_goals simp_all [StepKey.InRow, kindOf]

/-- A row of R86 is selected exactly by the selectors that have its columns. -/
theorem kindOf_eq_some_iff {key : StepKey} {k : StepKind} : kindOf key = some k ↔ key.InRow k :=
  ⟨Machine.inRow_of_kindOf, kindOf_of_inRow⟩

/-- A code that does not decode is refused with the decoder's reason (R222). -/
theorem Machine.runFetched_error {c : Code} {e : DecodeError} (h : decode c = .error e) (s : Machine.State) :
    Machine.runFetched (.run c s) = .refused (.badCode e) := by
  simp only [Machine.runFetched, h]

/-! ### The statements -/

/-- Settles O57: operand by operand for the commands, by R86's rows for the step kinds and by the function byte for the
PDUs. -/
theorem decodeOfEncodeIsTheInstruction : Obligations.DecodeOfEncodeIsTheInstruction := by
  intro i hi
  cases i with
  | crc16 b => exact reads_readBytes.decode_command (mk := .crc16) rfl trivial
  | validate f => exact reads_readBytes.decode_command (mk := .validate) rfl trivial
  | decodeRtu b => exact reads_readBytes.decode_command (mk := .decodeRtu) rfl trivial
  | decodeTcp b => exact reads_readBytes.decode_command (mk := .decodeTcp) rfl trivial
  | getAddress f => exact reads_readFrame.decode_command (mk := .getAddress) rfl hi
  | getFunction f => exact reads_readFrame.decode_command (mk := .getFunction) rfl hi
  | getPayload f => exact reads_readFrame.decode_command (mk := .getPayload) rfl hi
  | setPayload f pl =>
    exact decode_command_eq_ok.mpr ((reads_readFrame.andThen_map_eq_ok reads_readBytes).mpr
      ⟨f, pl, hi, trivial, by rw [List.append_nil], rfl⟩)
  | setException f e =>
    exact decode_command_eq_ok.mpr ((reads_readFrame.andThen_map_eq_ok reads_readByte).mpr
      ⟨f, e, hi, trivial, rfl, rfl⟩)
  | copyAsResponse f => exact reads_readFrame.decode_command (mk := .copyAsResponse) rfl hi
  | toBytes f => exact reads_readFrame.decode_command (mk := .toBytes) rfl hi
  | raShutdown p => exact decode_keyOf .shutdown p
  | raIdleDrain p => exact decode_keyOf .idleDrain p
  | raIdleAdvance p => exact decode_keyOf .idleAdvance p
  | raSilAppend p => exact decode_keyOf .silAppend p
  | raSilWait p => exact decode_keyOf .silWait p
  | raSilBoundary p => exact decode_keyOf .silBoundary p
  | raFixAppend p => exact decode_keyOf .fixAppend p
  | raFixWait p => exact decode_keyOf .fixWait p
  | raFixAbort p => exact decode_keyOf .fixAbort p
  | raReadyError p => exact decode_keyOf .readyError p
  | raReadyInvalid p => exact decode_keyOf .readyInvalid p
  | raReadyEmit p => exact decode_keyOf .readyEmit p
  | raReadyBcastDrop p => exact decode_keyOf .readyBcastDrop p
  | fc01ReadCoils pl => rfl
  | fc02ReadDiscreteInputs pl => rfl
  | fc03ReadHoldingRegisters pl => rfl
  | fc04ReadInputRegisters pl => rfl
  | fc05WriteSingleCoil pl => rfl
  | fc06WriteHoldingRegister pl => rfl
  | fc0FWriteMultipleCoils pl => rfl
  | fc10WriteMultipleHoldingRegisters pl => rfl
  | fcException f pl =>
    exact congrArg Except.ok (functionForm_of_exceptionByte hi pl)
  | fcOther f pl =>
    simp only [Instr.wellFormed, Bool.and_eq_true, Bool.not_eq_true', List.contains_eq_mem,
      decide_eq_false_iff_not] at hi
    obtain ⟨hbit, hlisted⟩ := hi
    have hform : functionForm f pl = .fcOther f pl := by
      rw [functionForm_of_not_listed hlisted, hbit, if_neg Bool.false_ne_true]
    exact congrArg Except.ok hform

/-- Settles O58: a command's operands are read from the bytes that the encoder writes for them, and a PDU is the encoding
of its form. -/
theorem encodeOfDecodeIsTheCode : Obligations.EncodeOfDecodeIsTheCode := by
  refine ⟨fun bs i h => ?_, fun function payload => ?_⟩
  · cases bs with
    | nil => cases h
    | cons code operands => exact encode_of_readOperands (decode_command_eq_ok.mp h)
  · exact ⟨functionForm function payload, rfl, encode_functionForm function payload⟩

/-- A Frame operand. -/
def sampleFrame : Frame := .tcp { transactionId := 0, protocolId := 0, unitId := 0, function := 0, payload := [] }

/-- An instruction with this encoding that is well-formed makes a command with this code decode. -/
theorem exists_command_of_encode {code : Byte} {i : Instr} {bs : Bytes} (hi : i.wellFormed = true)
    (h : encode i = .command (code :: bs)) : ∃ bs i, decode (.command (code :: bs)) = .ok i :=
  ⟨bs, i, h ▸ decodeOfEncodeIsTheInstruction i hi⟩

/-- Settles O59: the decoder knows the eleven codes alone; each of them stands first in the encoding of a well-formed
instruction. -/
theorem unassignedCommandsAreRefused : Obligations.UnassignedCommandsAreRefused := by
  refine ⟨fun code bs hcode => ?_, fun code hcode => ?_⟩
  · have hdecode : decode (.command (code :: bs)) = .error (.unassigned code) := by
      simp only [decode, decodeCommand, readCommand, readOperands_of_not_assigned hcode]
    refine ⟨hdecode, fun s rest hc hs => ?_⟩
    rw [Machine.step_cons hc hs]
    exact Machine.runFetched_error hdecode _
  · simp only [List.mem_cons, List.not_mem_nil, or_false] at hcode
    obtain rfl | rfl | rfl | rfl | rfl | rfl | rfl | rfl | rfl | rfl | rfl := hcode
    · exact exists_command_of_encode (i := .crc16 []) rfl rfl
    · exact exists_command_of_encode (i := .validate []) rfl rfl
    · exact exists_command_of_encode (i := .decodeRtu []) rfl rfl
    · exact exists_command_of_encode (i := .decodeTcp []) rfl rfl
    · exact exists_command_of_encode (i := .getAddress sampleFrame) rfl rfl
    · exact exists_command_of_encode (i := .getFunction sampleFrame) rfl rfl
    · exact exists_command_of_encode (i := .getPayload sampleFrame) rfl rfl
    · exact exists_command_of_encode (i := .setPayload sampleFrame []) rfl rfl
    · exact exists_command_of_encode (i := .setException sampleFrame 1) rfl rfl
    · exact exists_command_of_encode (i := .copyAsResponse sampleFrame) rfl rfl
    · exact exists_command_of_encode (i := .toBytes sampleFrame) rfl rfl

/-- Settles O41: each row's columns are a condition on the selector that holds exactly where the row is selected. -/
theorem everyRowOfTheStepTableSelects : Obligations.EveryRowOfTheStepTableSelects := by
  intro key
  simp only [kindOf_eq_some_iff, StepKey.InRow]
  exact ⟨trivial, and_comm, and_comm, and_left_comm, and_left_comm, and_left_comm, and_left_comm, and_left_comm,
    and_left_comm, and_left_comm, and_left_comm, and_left_comm, and_left_comm⟩

/-- Settles O60: the words are the encodings of the command and the PDUs; the selector falls under RA_SIL_BOUNDARY,
whatever the columns that row leaves open. -/
theorem sampleWordsDecode : Obligations.SampleWordsDecode :=
  ⟨decodeOfEncodeIsTheInstruction (.crc16 [0xFF]) rfl,
    decodeOfEncodeIsTheInstruction (.fc03ReadHoldingRegisters [0x00, 0x05, 0x00, 0x01]) rfl,
    decodeOfEncodeIsTheInstruction (.fcException 0x83 [0x02]) rfl,
    Machine.decode_select (k := .silBoundary) (kindOf_eq_some_iff.mpr ⟨rfl, rfl, rfl, rfl⟩) 3⟩

end Sys2Proof
end

section
/-! SUPPORT. The function-code forms of single reads and writes and of the bytes without a row of their own, the length
of a request, and the exception response on the wire (spec/30_encoding.md R74 to R79; spec/45_reassembler.md R187).
Settles O26, O17, O21, O22 and O24. -/

namespace Sys2Proof.Machine

/-! ### The forms of codes 1 to 6 -/

section SingleForms

variable {function : Byte} (start count : U16)

/-- The request fields of codes 1 to 4 (R75). -/
theorem requestFields_read (hf : function ∈ [0x01#8, 0x02#8, 0x03#8, 0x04#8]) :
    requestFields function (rangePayload start count) = some (.read start count) := by
  have hstart : u16be (rangePayload start count) 0 = start := rangePayload_start start count []
  have hcount : u16be (rangePayload start count) 2 = count := rangePayload_count start count []
  simp only [List.mem_cons, List.not_mem_nil, or_false] at hf
  obtain rfl | rfl | rfl | rfl := hf <;> simp [requestFields, hstart, hcount]

/-- The request fields of codes 5 and 6 (R75). -/
theorem requestFields_write (hf : function ∈ [0x05#8, 0x06#8]) :
    requestFields function (rangePayload start count) = some (.write start count) := by
  have hstart : u16be (rangePayload start count) 0 = start := rangePayload_start start count []
  have hcount : u16be (rangePayload start count) 2 = count := rangePayload_count start count []
  obtain rfl | rfl := List.mem_pair.mp hf <;> simp [requestFields, hstart, hcount]

/-- The response fields of codes 5 and 6, the request unchanged (R76). -/
theorem responseFields_write (hf : function ∈ [0x05#8, 0x06#8]) :
    responseFields function (rangePayload start count) = some (.echoWrite start count) := by
  have hstart : u16be (rangePayload start count) 0 = start := rangePayload_start start count []
  have hcount : u16be (rangePayload start count) 2 = count := rangePayload_count start count []
  obtain rfl | rfl := List.mem_pair.mp hf <;> simp [responseFields, hstart, hcount]

/-- Codes 5 and 6 echo the whole request payload (R74, R76). -/
theorem echoPayload_write (hf : function ∈ [0x05#8, 0x06#8]) :
    echoPayload function (rangePayload start count) = some (rangePayload start count) := by
  rw [echoPayload, requestFields_write start count hf]

end SingleForms

/-- The codes 1 to 6 have a clear exception bit and no byteCount (R75, R77). -/
theorem plain_of_single : ∀ f ∈ [0x01#8, 0x02#8, 0x03#8, 0x04#8] ++ [0x05#8, 0x06#8],
    exceptionByte f = false ∧ hasByteCount f = false := by decide

/-! ### Every function byte -/

section FunctionByte

variable {function : Byte}

/-- Whatever the function byte, its form answers what the spec says of the PDU (R79). -/
theorem exec_functionForm (function : Byte) (payload : Bytes) (s : State) :
    exec (functionForm function payload) s = answerForm function payload s := by
  by_cases h : function ∈ listedFunctions
  · simp only [listedFunctions, List.mem_cons, List.not_mem_nil, or_false] at h
    obtain rfl | rfl | rfl | rfl | rfl | rfl | rfl | rfl := h <;> rfl
  · rw [functionForm_of_not_listed h]
    split <;> rfl

/-- The function bytes with a byteCount have a row of their own (R74). -/
theorem hasByteCount_of_not_listed (h : function ∉ listedFunctions) : hasByteCount function = false := by
  simp_all [hasByteCount, listedFunctions]

/-- A form without a byteCount has 8 bytes under FIXED_PREFIX (R187). -/
theorem pduFrameLen_of_not_hasByteCount (h : hasByteCount function = false) (payload : Bytes) :
    pduFrameLen function payload = some 8 := by
  rw [pduFrameLen, h, if_neg Bool.false_ne_true]

/-- A function byte without a row of its own has no request layout (R75, R79). -/
theorem requestFields_of_not_listed (h : function ∉ listedFunctions) (payload : Bytes) :
    requestFields function payload = none := by
  have hn := toNat_not_mem_map h
  unfold requestFields
  split <;> simp_all [listedFunctions]

/-- A function byte without a row of its own has no response layout (R76, R79). -/
theorem responseFields_of_not_listed (h : function ∉ listedFunctions) (payload : Bytes) :
    responseFields function payload = none := by
  have hn := toNat_not_mem_map h
  unfold responseFields
  split <;> simp_all [listedFunctions]

end FunctionByte

/-! ### The length of a request -/

/-- The length that the fields of a request give its RTU frame (R75, R187). -/
def requestLength : RequestFields → Nat
  | .read _ _ => 8
  | .write _ _ => 8
  | .writeCoils _ _ byteCount _ _ => 9 + byteCount.toNat
  | .writeRegisters _ _ byteCount _ _ => 9 + byteCount.toNat

/-- The wire bytes of an RTU frame are its payload and 4 more (R122). -/
theorem rtuBytes_length (f : RtuFrame) : (rtuBytes f).length = f.payload.length + 4 := by
  simp [rtuBytes, le16]

/-- The frame length of an RTU frame is the one told from its PDU (R75, R187). -/
theorem frameLen_rtuBytes {f : RtuFrame} {n : Nat} (h : pduFrameLen f.function f.payload = some n) :
    frameLen (rtuBytes f) = n := by
  have hfunction : byteAt (rtuBytes f) 1 = f.function := rfl
  rw [frameLen, hfunction]
  unfold pduFrameLen at h
  split at h
  · next hcount =>
    split at h
    · next hlen =>
      have hbyte : byteAt (rtuBytes f) 6 = byteAt f.payload 4 := by
        simp [rtuBytes, byteAt, List.getElem?_append_left (show 4 < f.payload.length from hlen)]
      rw [if_pos hcount, hbyte]
      exact Option.some.inj h
    · cases h
  · next hcount =>
    rw [if_neg hcount]
    exact Option.some.inj h

/-- A payload with a request layout has the length its fields give, and FIXED_PREFIX gives that length too (R75, R187).
-/
theorem length_of_requestFields {function : Byte} {payload : Bytes} {r : RequestFields}
    (h : requestFields function payload = some r) :
    payload.length + 4 = requestLength r ∧ pduFrameLen function payload = some (requestLength r) := by
  by_cases hf : function ∈ listedFunctions
  · obtain hsingle | hcounted := List.mem_append.mp
      (show function ∈ [0x01#8, 0x02#8, 0x03#8, 0x04#8, 0x05#8, 0x06#8] ++ [0x0F#8, 0x10#8] from hf)
    · simp only [List.mem_cons, List.not_mem_nil, or_false] at hsingle
      obtain rfl | rfl | rfl | rfl | rfl | rfl := hsingle
      all_goals
        obtain ⟨hlen, rfl⟩ : payload.length = 4 ∧ _ = r := by simpa [requestFields] using h
        exact ⟨by rw [hlen, requestLength], rfl⟩
    · obtain rfl | rfl := List.mem_pair.mp hcounted
      all_goals
        obtain ⟨hdata, rfl⟩ : hasDataBytes payload = true ∧ _ = r := by simpa [requestFields] using h
        obtain ⟨hmin, hlen⟩ := of_decide_eq_true hdata
        refine ⟨by rw [requestLength]; omega, ?_⟩
        rw [pduFrameLen, if_pos (by decide), if_pos hmin, requestLength]
  · cases (requestFields_of_not_listed hf payload).symm.trans h

/-! ### The exception response -/

/-- SET_EXCEPTION with a code other than 0 answers its frame (R164). -/
theorem exec_setException {e : Byte} (he : e ≠ 0#8) (f : Frame) (s : State) :
    exec (.setException f e) s = answer (.frame (setException f e)) s := by
  simp only [exec, execSetException, if_neg he]

/-- An RTU exception response: the code byte behind address and function, then their CRC, low byte first (R77). -/
theorem toBytes_setException_rtu (f : RtuFrame) (e : Byte) : toBytes (setException (.rtu f) e) =
    some ([f.address, setExceptionBit f.function, e] ++
      le16 (crc16 [f.address, setExceptionBit f.function, e])) := rfl

/-- A TCP exception response has the MBAP length 3 (R77, R142). -/
theorem toBytes_setException_tcp (f : TcpFrame) (e : Byte) : toBytes (setException (.tcp f) e) =
    some (be16 f.transactionId ++ be16 f.protocolId ++ [0, 3, f.unitId, setExceptionBit f.function, e]) := by
  have hlength : be16 (BitVec.ofNat 16 3) = [0, 3] := by decide
  simp [toBytes, setException, tcpBytes, mbapLength, hlength]

/-- TO_BYTES answers the bytes there are (R166). -/
theorem exec_toBytes {f : Frame} {bs : Bytes} (h : toBytes f = some bs) (s : State) :
    exec (.toBytes f) s = answer (.bytes bs) s := by
  simp only [exec, execToBytes, h]

/-! ### The statements -/

/-- Settles O26: a request layout has the length its fields give, and so has its frame under FIXED_PREFIX. -/
theorem requestLengthIsTheFixedPrefixLength : Obligations.RequestLengthIsTheFixedPrefixLength := by
  refine ⟨fun b0 fc b2 b3 b4 b5 b6 b7 rest => ?_, fun f r hr => ?_⟩
  · simp [frameLen, hasByteCount, byteAt]
  · obtain ⟨hlen, hfixed⟩ := length_of_requestFields hr
    have hwire : (rtuBytes f).length = requestLength r := (rtuBytes_length f).trans hlen
    refine ⟨hwire.trans (frameLen_rtuBytes hfixed).symm, hwire.trans ?_⟩
    cases r <;> rfl

/-- Settles O17: SET_EXCEPTION answers a frame, and TO_BYTES writes its two bytes behind the frame's addressing. -/
theorem exceptionResponseWireForm : Obligations.ExceptionResponseWireForm :=
  ⟨fun f e s he => ⟨setException (.rtu f) e, exec_setException he (.rtu f) s,
      exec_toBytes (toBytes_setException_rtu f e) s⟩,
    fun f e s he => ⟨setException (.tcp f) e, exec_setException he (.tcp f) s,
      exec_toBytes (toBytes_setException_tcp f e) s⟩⟩

/-- Settles O21: the range is read back from the payload it was written to. -/
theorem readRequestForms : Obligations.ReadRequestForms := by
  intro x hx start count s
  obtain ⟨hf, hexec⟩ : x.2 ∈ [0x01#8, 0x02#8, 0x03#8, 0x04#8] ∧
      ∀ payload, exec (x.1 payload) s = answerForm x.2 payload s := by
    simp only [List.mem_cons, List.not_mem_nil, or_false] at hx
    obtain rfl | rfl | rfl | rfl := hx <;> exact ⟨by decide, fun _ => rfl⟩
  obtain ⟨hbit, hcount⟩ := plain_of_single x.2 (List.mem_append_left [0x05#8, 0x06#8] hf)
  rw [shift_setWidth_pairs_eq_rangePayload]
  exact ⟨_, hexec (rangePayload start count), rfl, hbit, requestFields_read start count hf,
    pduFrameLen_of_not_hasByteCount hcount _⟩

/-- Settles O22: the two words are read back from the payload they were written to, as request and as response. -/
theorem writeSingleForms : Obligations.WriteSingleForms := by
  intro x hx addr value s
  obtain ⟨hf, hexec⟩ : x.2 ∈ [0x05#8, 0x06#8] ∧ ∀ payload, exec (x.1 payload) s = answerForm x.2 payload s := by
    obtain rfl | rfl := List.mem_pair.mp hx <;> exact ⟨by decide, fun _ => rfl⟩
  obtain ⟨hbit, hcount⟩ := plain_of_single x.2 (List.mem_append_right [0x01#8, 0x02#8, 0x03#8, 0x04#8] hf)
  rw [shift_setWidth_pairs_eq_rangePayload]
  exact ⟨_, hexec (rangePayload addr value), rfl, hbit, requestFields_write addr value hf,
    responseFields_write addr value hf, echoPayload_write addr value hf, pduFrameLen_of_not_hasByteCount hcount _⟩

/-- Settles O24: a form answers the view of its PDU, whose layouts and length follow the function byte. -/
theorem otherFunctionBytesAreCarried : Obligations.OtherFunctionBytesAreCarried := by
  refine ⟨fun function payload s => ?_, fun function code s hbit => ?_, fun function payload s hbit hf => ?_⟩
  · exact ⟨pduView function payload, exec_functionForm function payload s, rfl, rfl⟩
  · have hf := not_listed_of_exceptionByte hbit
    exact ⟨pduView function [code], rfl, rfl, hbit, if_pos ⟨hbit, rfl⟩,
      pduFrameLen_of_not_hasByteCount (hasByteCount_of_not_listed hf) [code]⟩
  · exact ⟨pduView function payload, rfl, rfl, hbit, requestFields_of_not_listed hf payload,
      responseFields_of_not_listed hf payload,
      pduFrameLen_of_not_hasByteCount (hasByteCount_of_not_listed hf) payload⟩

end Sys2Proof.Machine
end

section
/-! SUPPORT. The CRC unit (spec/41_crc.md R101 to R107): the shift register loses nothing and can be fed one bit at a
time, so it agrees with the bit-serial unit, a string followed by its own CRC leaves 0 in it, and one changed byte
always shows. Settles O1, O3, O4, O5 and O2. -/

namespace Sys2Proof.Machine

/-! ### One shift -/

/-- A shift of the register fed with `v` is a shift of the bit-serial unit fed with bit 0 of `v`; the rest of `v` moves
down by one bit (R102). -/
theorem crcBit_xor (c v : U16) : crcBit (c ^^^ v) = crcSerialBit c (v.getLsbD 0) ^^^ (v >>> 1) := by
  simp only [crcBit, crcSerialBit, bne, BitVec.getLsbD_xor, BitVec.ushiftRight_xor_distrib]
  split
  · ac_rfl
  · rfl

/-- The bit that a shift puts out stands in the top bit of the result, since 0xA001 has its top bit set. -/
theorem crcBit_getLsbD_top (c : U16) : (crcBit c).getLsbD 15 = c.getLsbD 0 := by
  unfold crcBit
  split
  · next h => simp [h, crcPoly]
  · next h => simpa using h

/-- A shift loses nothing: the bit it puts out is in the result, and so are the 15 others. -/
theorem crcBit_injective : Function.Injective crcBit := by
  intro c d h
  have hlow : c.getLsbD 0 = d.getLsbD 0 := by rw [← crcBit_getLsbD_top, h, crcBit_getLsbD_top]
  have hhigh : c >>> 1 = d >>> 1 := by
    unfold crcBit at h
    rw [hlow] at h
    split at h
    · exact (BitVec.xor_left_inj crcPoly).mp h
    · exact h
  apply BitVec.eq_of_getLsbD_eq
  intro i hi
  cases i with
  | zero => exact hlow
  | succ i => simpa [Nat.add_comm] using congrArg (·.getLsbD i) hhigh

/-! ### Shifts of a byte and of two bytes -/

/-- Shifts lose nothing. -/
theorem crcShift_injective (n : Nat) : Function.Injective (crcShift n) := by
  induction n with
  | zero => exact fun _ _ h => h
  | succ n ih => exact ih.comp crcBit_injective

/-- No shift leaves 0. -/
theorem crcShift_zero (n : Nat) : crcShift n 0#16 = 0#16 := by
  induction n with
  | zero => rfl
  | succ n ih => exact ih

/-- Shifts in a row are counted together. -/
theorem crcShift_add (m n : Nat) (c : U16) : crcShift (m + n) c = crcShift n (crcShift m c) := by
  induction m generalizing c with
  | zero => rw [Nat.zero_add, crcShift]
  | succ m ih => rw [Nat.succ_add, crcShift, crcShift, ih]

/-- `n` shifts of the register fed with `v` are `n` shifts of the bit-serial unit fed with the low bits of `v`, the
least significant first; the rest of `v` has moved down by `n` bits (R102). -/
theorem crcShift_xor (n : Nat) (c v : U16) :
    crcShift n (c ^^^ v) =
      (List.range n).foldl (fun r i => crcSerialBit r (v.getLsbD i)) c ^^^ (v >>> n) := by
  induction n generalizing c v with
  | zero => simp [crcShift]
  | succ n ih =>
    rw [crcShift, crcBit_xor, ih, List.range_succ_eq_map, List.foldl_cons, List.foldl_map, Nat.add_comm n,
      BitVec.shiftRight_add]
    simp only [BitVec.getLsbD_ushiftRight, Nat.add_comm 1]

/-- Data above the bits that the shifts put out only moves down. -/
theorem crcShift_xor_of_low_clear {n : Nat} {v : U16} (hv : ∀ i < n, v.getLsbD i = false) (c : U16) :
    crcShift n (c ^^^ v) = crcShift n c ^^^ (v >>> n) := by
  have hserial : crcShift n c = (List.range n).foldl (fun r _ => crcSerialBit r false) c := by
    simpa using crcShift_xor n c 0#16
  rw [crcShift_xor, hserial, List.foldl_ext _ _ c fun r i hi => by rw [hv i (List.mem_range.mp hi)]]

/-- The two bytes of a word do not overlap. -/
theorem join16_eq_xor (lo hi : Byte) : join16 lo hi = lo.setWidth 16 ^^^ (hi.setWidth 16 <<< 8) := by
  apply BitVec.eq_of_getLsbD_eq
  intro i hlt
  by_cases h8 : i < 8
  · simp [join16, h8]
  · simp [join16, h8, BitVec.getLsbD_of_ge lo i (not_lt.mp h8)]

/-- The value of a word, from its two bytes (R13). -/
theorem toNat_join16 (lo hi : Byte) : (join16 lo hi).toNat = lo.toNat + 256 * hi.toNat := by
  have happend : join16 lo hi = hi ++ lo := by
    rw [join16, BitVec.or_comm, BitVec.append_def, BitVec.shiftLeftZeroExtend_eq, BitVec.setWidth'_eq]
  rw [happend, BitVec.toNat_append, ← Nat.shiftLeft_add_eq_or_of_lt lo.isLt, Nat.shiftLeft_eq]
  omega

/-- Two bytes, fed one after the other, are the word they make, fed at once. -/
theorem crcStep_crcStep (c : U16) (lo hi : Byte) : crcStep (crcStep c lo) hi = crcShift 16 (c ^^^ join16 lo hi) := by
  have hlow : ∀ i < 8, (hi.setWidth 16 <<< 8).getLsbD i = false := by
    intro i hlt
    simp [hlt]
  have hshift : (hi.setWidth 16 <<< 8) >>> 8 = hi.setWidth 16 := by bv_omega
  rw [crcStep, crcStep, crcShift_add 8 8, join16_eq_xor, ← BitVec.xor_assoc, crcShift_xor_of_low_clear hlow, hshift]

/-- CRC_STEP is the bit-serial unit's work on one byte (R102). -/
theorem crcSerialStep_eq_crcStep (c : U16) (b : Byte) : crcSerialStep c b = crcStep c b := by
  have hclear : b.setWidth 16 >>> 8 = 0#16 := by bv_omega
  rw [crcStep, crcShift_xor, hclear, BitVec.xor_zero, crcSerialStep]
  refine List.foldl_ext _ _ c fun r i hi => ?_
  rw [BitVec.getLsbD_setWidth]
  simp [(List.mem_range.mp hi).trans (by decide : 8 < 16)]

/-! ### The CRC of a string -/

/-- CRC16 continues over appended bytes (R103). -/
theorem crc16_append (a b : Bytes) : crc16 (a ++ b) = b.foldl crcStep (crc16 a) := List.foldl_append

/-- The CRC is 0 exactly where the two trailing bytes are the CRC of the others (R106). -/
theorem crc16_append_pair_eq_zero {body : Bytes} {lo hi : Byte} :
    crc16 (body ++ [lo, hi]) = 0#16 ↔ crc16 body = join16 lo hi := by
  calc crc16 (body ++ [lo, hi]) = 0#16
      ↔ crcShift 16 (crc16 body ^^^ join16 lo hi) = crcShift 16 0#16 := by
        rw [crc16_append, List.foldl_cons, List.foldl_cons, List.foldl_nil, crcStep_crcStep, crcShift_zero]
    _ ↔ crc16 body ^^^ join16 lo hi = 0#16 := (crcShift_injective 16).eq_iff
    _ ↔ crc16 body = join16 lo hi := BitVec.xor_eq_zero_iff

/-- Different registers stay different over the same bytes. -/
theorem foldl_crcStep_injective (b : Bytes) : Function.Injective fun c => b.foldl crcStep c := by
  induction b with
  | nil => exact fun _ _ h => h
  | cons x b ih => exact fun _ _ h => (BitVec.xor_left_inj _).mp (crcShift_injective 8 (ih h))

/-- Different bytes leave different registers. -/
theorem crcStep_right_injective (c : U16) : Function.Injective (crcStep c) := by
  intro x y h
  have hword : x.setWidth 16 = y.setWidth 16 := (BitVec.xor_right_inj c).mp (crcShift_injective 8 h)
  simpa using congrArg (·.setWidth 8) hword

/-- A change of one byte changes the CRC. -/
theorem crc16_modify_ne {f : Bytes} {k : Nat} {g : Byte → Byte} (hk : k < f.length) (hg : g f[k] ≠ f[k]) :
    crc16 (f.modify k g) ≠ crc16 f := by
  intro h
  have hold : crc16 f = (f.drop (k + 1)).foldl crcStep (crcStep (crc16 (f.take k)) f[k]) := by
    rw [← List.foldl_cons, ← crc16_append, List.cons_getElem_drop_succ, List.take_append_drop]
  have hnew : crc16 (f.modify k g) = (f.drop (k + 1)).foldl crcStep (crcStep (crc16 (f.take k)) (g f[k])) := by
    rw [← List.foldl_cons, ← crc16_append, ← List.modify_eq_take_cons_drop hk]
  rw [hnew, hold] at h
  exact hg (crcStep_right_injective _ (foldl_crcStep_injective _ h))

/-! ### VALIDATE -/

/-- A string of at least 2 bytes is a body and two trailing bytes. -/
theorem exists_body_of_two_le {f : Bytes} (h : 2 ≤ f.length) : ∃ body lo hi, f = body ++ [lo, hi] := by
  have hdrop : (f.drop (f.length - 2)).length = 2 := by rw [List.length_drop]; omega
  obtain ⟨lo, hi, hlast⟩ := List.length_eq_two.mp hdrop
  exact ⟨f.take (f.length - 2), lo, hi, by rw [← hlast, List.take_append_drop]⟩

/-- A string of fewer than 2 bytes does not validate (R105, D5). -/
theorem validate_of_length_lt_two {f : Bytes} (h : f.length < 2) : validate f = false := by
  rw [validate, if_pos h]

/-- A string of at least 2 bytes validates exactly where its CRC is 0 (R106). -/
theorem validate_iff_crc16_eq_zero {f : Bytes} (h : 2 ≤ f.length) : validate f = true ↔ crc16 f = 0#16 := by
  obtain ⟨body, lo, hi, rfl⟩ := exists_body_of_two_le h
  rw [validate_append_pair, beq_iff_eq, crc16_append_pair_eq_zero]

/-- Inverting one bit changes the byte. -/
theorem xor_bit_ne (b : Byte) {j : Nat} (hj : j < 8) : b ^^^ (1#8 <<< j) ≠ b := by
  intro h
  have hbit := congrArg (·.getLsbD j) h
  simp [hj] at hbit

/-! ### The operations -/

/-- CRC16 answers the CRC of its operand (R103). -/
theorem exec_crc16 (b : Bytes) (s : State) : exec (.crc16 b) s = answer (.word (crc16 b)) s := rfl

/-- VALIDATE answers whether its operand validates (R105). -/
theorem exec_validate (f : Bytes) (s : State) : exec (.validate f) s = answer (.bool (validate f)) s := rfl

/-! ### The statements -/

/-- Settles O1: both forms are the register fed with the byte's 8 bits, and no bit is left over. -/
theorem crcStepIsBitSerial : Obligations.CrcStepIsBitSerial := fun c b =>
  ⟨crcSerialStep_eq_crcStep c b, crcSerialStep_eq_crcStep c b⟩

/-- Settles O3: the comparison with the trailing word is one of numbers. -/
theorem validateComparesTheTrailingPair : Obligations.ValidateComparesTheTrailingPair := by
  refine ⟨fun f s hf => ?_, fun body lo hi s => ?_⟩
  · rw [exec_validate, validate_of_length_lt_two hf]
    rfl
  · simp only [exec_validate, validate_append_pair, ← toNat_join16, BitVec.toNat_inj, beq_eq_decide]
    rfl

/-- Settles O4: the two trailing bytes meet the CRC of the body in the register and leave 0 there. -/
theorem crcResidueIsZero : Obligations.CrcResidueIsZero :=
  ⟨fun b => crc16_append_pair_eq_zero.mpr (join16_lo8_hi8 (crc16 b)).symm, fun _ => validate_iff_crc16_eq_zero⟩

/-- Settles O5: the changed byte changes the CRC, which was 0. -/
theorem singleBitErrorIsDetected : Obligations.SingleBitErrorIsDetected := by
  intro f i hvalid hi
  have hlen : 2 ≤ f.length := by
    by_contra hshort
    rw [validate_of_length_lt_two (not_le.mp hshort)] at hvalid
    cases hvalid
  have hflip : 2 ≤ (flipBit f i).length := by rwa [flipBit, List.length_modify]
  have hchanged : crc16 (flipBit f i) ≠ crc16 f :=
    crc16_modify_ne (by omega) (xor_bit_ne _ (Nat.mod_lt i (by decide)))
  rw [(validate_iff_crc16_eq_zero hlen).mp hvalid] at hchanged
  exact Bool.eq_false_iff.mpr (mt (validate_iff_crc16_eq_zero hflip).mp hchanged)

/-- Settles O2: CRC16 is a fold from 0xFFFF. -/
theorem crc16FoldsTheStep : Obligations.Crc16FoldsTheStep := by
  have happend (a b : Bytes) (s : State) :
      exec (.crc16 (a ++ b)) s = answer (.word (b.foldl crcStep (crc16 a))) s := by
    rw [exec_crc16, crc16_append]
  exact ⟨exec_crc16 [], happend, fun a b => happend a [b]⟩

end Sys2Proof.Machine
end

section
/-! SUPPORT. DECODE_RTU and TO_BYTES of an RTU frame (spec/42_frame_rtu.md R121 to R125): what DECODE_RTU answers in
each of its cases, and that it reads a frame's wire bytes back. Settles O6, O8, O9 and O7. -/

namespace Sys2Proof.Machine

/-! ### The cases of DECODE_RTU -/

/-- The length comes first (R121). -/
theorem decodeRtu_of_length_lt_four {b : Bytes} (hlen : b.length < 4) : decodeRtu b = .error .tooShort := if_pos hlen

/-- The CRC comes second (R121). -/
theorem decodeRtu_of_validate_eq_false {b : Bytes} (hlen : 4 ≤ b.length) (hinvalid : validate b = false) :
    decodeRtu b = .error .badCrc := by
  rw [decodeRtu, if_neg (not_lt.mpr hlen), hinvalid, if_neg Bool.false_ne_true]

/-- A trailing pair validates exactly where it is the CRC of the bytes before it (R105). -/
theorem validate_append_pair_iff {body : Bytes} {lo hi : Byte} :
    validate (body ++ [lo, hi]) = true ↔ crc16 body = join16 lo hi := by
  rw [validate_append_pair, beq_iff_eq]

/-- A word is the number that its two bytes write, low byte first (R13). -/
theorem ofNat_eq_join16 (lo hi : Byte) : BitVec.ofNat 16 (lo.toNat + 256 * hi.toNat) = join16 lo hi := by
  rw [← toNat_join16, BitVec.ofNat_toNat, BitVec.setWidth_eq]

/-! ### Wire bytes read back, and one inverted bit -/

/-- DECODE_RTU reads a frame's wire bytes back, with the CRC that TO_BYTES computed (R122, R123). -/
theorem decodeRtu_rtuBytes (f : RtuFrame) : decodeRtu (rtuBytes f) = .ok (sealRtu f) := by
  rw [rtuBytes, le16, decodeRtu_append_pair, join16_lo8_hi8]
  exact if_pos rfl

/-- A frame that keeps R23's invariant has that CRC already. -/
theorem sealRtu_of_wellFormed {f : RtuFrame} (h : f.wellFormed = true) : sealRtu f = f := by
  have hcrc : f.crc = bodyCrc f.address f.function f.payload := eq_of_beq h
  rw [sealRtu, ← hcrc]

/-- One inverted bit in a string that decodes fails the CRC (R107, R125). -/
theorem decodeRtu_flipBit {b : Bytes} {f : RtuFrame} {i : Nat} (h : decodeRtu b = .ok f) (hi : i < 8 * b.length) :
    decodeRtu (flipBit b i) = .error .badCrc := by
  obtain ⟨hlen, hvalid, _, _⟩ := decodeRtu_ok h
  have hflip : 4 ≤ (flipBit b i).length := by rwa [flipBit, List.length_modify]
  exact decodeRtu_of_validate_eq_false hflip (singleBitErrorIsDetected _ i hvalid hi)

/-! ### The operation -/

section Exec

variable {b : Bytes} {f : RtuFrame}

/-- DECODE_RTU answers the frame there is (R121). -/
theorem exec_decodeRtu_of_ok (h : decodeRtu b = .ok f) (s : State) :
    exec (.decodeRtu b) s = answer (.frame (.rtu f)) s := by
  simp only [exec, execDecodeRtu, h]

/-- DECODE_RTU answers the FrameError there is (R121, R226). -/
theorem exec_decodeRtu_of_error {reason : FrameError} (h : decodeRtu b = .error reason) (s : State) :
    exec (.decodeRtu b) s = answer (.frameError reason) s := by
  simp only [exec, execDecodeRtu, h, raiseFrameError]

/-- A frame in the result of a DECODE_RTU is the one that its operand holds. -/
theorem decodeRtu_of_exec {s s' : State} (h : exec (.decodeRtu b) s = .next s')
    (hresult : s'.result = some (.frame (.rtu f))) : decodeRtu b = .ok f := by
  cases hd : decodeRtu b with
  | ok g =>
    rw [exec_decodeRtu_of_ok hd] at h
    cases h
    cases hresult
    rfl
  | error reason =>
    rw [exec_decodeRtu_of_error hd] at h
    cases h
    cases hresult

end Exec

/-! ### The statements -/

/-- Settles O6: one case of DECODE_RTU per clause; a pair that validates is the CRC of the bytes before it. -/
theorem decodeRtuOutcomes : Obligations.DecodeRtuOutcomes := by
  refine ⟨fun b s hlen => ?_, fun b s hlen hinvalid => ?_, fun a fn lo hi pl s hvalid => ?_⟩
  · exact exec_decodeRtu_of_error (decodeRtu_of_length_lt_four hlen) s
  · exact exec_decodeRtu_of_error (decodeRtu_of_validate_eq_false hlen hinvalid) s
  · have hcrc : crc16 (a :: fn :: pl) = join16 lo hi := validate_append_pair_iff.mp hvalid
    rw [ofNat_eq_join16]
    exact ⟨exec_decodeRtu_of_ok ((decodeRtu_append_pair a fn pl lo hi).trans (if_pos hcrc)) s, hcrc.symm⟩

/-- Settles O8: a decoded frame's wire bytes are the operand, and they are read back to a frame with the same CRC. -/
theorem rtuRoundTrip : Obligations.RtuRoundTrip := by
  refine ⟨fun b f s s' hexec hresult => ?_, fun f s hwf => ?_⟩
  · obtain ⟨_, _, _, hbytes⟩ := decodeRtu_ok (decodeRtu_of_exec hexec hresult)
    exact exec_toBytes (f := .rtu f) (congrArg some hbytes) s'
  · have hdecode : decodeRtu (rtuBytes f) = .ok f := by rw [decodeRtu_rtuBytes, sealRtu_of_wellFormed hwf]
    exact ⟨rtuBytes f, exec_toBytes rfl s, exec_decodeRtu_of_ok hdecode s⟩

/-- Settles O9: a string of at least 2 bytes with its CRC is the wire bytes of a frame. -/
theorem crcRoundTripProperty : Obligations.CrcRoundTripProperty := by
  intro a fn pl s
  have hdecode : decodeRtu (a :: fn :: pl ++ le16 (crc16 (a :: fn :: pl))) =
      .ok ⟨a, fn, pl, crc16 (a :: fn :: pl)⟩ := decodeRtu_rtuBytes ⟨a, fn, pl, crc16 (a :: fn :: pl)⟩
  exact ⟨exec_decodeRtu_of_ok hdecode s, fun i hi => exec_decodeRtu_of_error (decodeRtu_flipBit hdecode hi) s⟩

/-- Settles O7: the trailing pair is the two bytes of the CRC, low byte first. -/
theorem toBytesRtuAppendsTheCrc : Obligations.ToBytesRtuAppendsTheCrc := by
  intro f s
  rw [setWidth_eq_lo8, shift_setWidth_eq_hi8]
  exact exec_toBytes rfl s

end Sys2Proof.Machine
end

section
/-! SUPPORT. DECODE_TCP and TO_BYTES of a TCP frame (spec/43_frame_tcp.md R141 to R143): what DECODE_TCP answers for a
header and a payload, the bytes that TO_BYTES writes, and that each reads the other back. Settles O10, O12 and O11. -/

namespace Sys2Proof.Machine

/-! ### The cases of DECODE_TCP -/

/-- The length comes first (R141, D7). -/
theorem decodeTcp_of_length_lt_eight {b : Bytes} (hlen : b.length < 8) : decodeTcp b = .error .tooShort := if_pos hlen

/-- A string of at least 8 bytes is the 8 header bytes and a payload. -/
theorem exists_header_of_eight_le {b : Bytes} (h : 8 ≤ b.length) :
    ∃ t1 t0 p1 p0 l1 l0 u fn pl, b = t1 :: t0 :: p1 :: p0 :: l1 :: l0 :: u :: fn :: pl := by
  match b, h with
  | t1 :: t0 :: p1 :: p0 :: l1 :: l0 :: u :: fn :: pl, _ => exact ⟨t1, t0, p1, p0, l1, l0, u, fn, pl, rfl⟩

/-- DECODE_TCP compares the declared length with that of the bytes behind it, which are unit, function and payload, and
splits its operand into the frame's fields (R141). -/
theorem decodeTcp_header (t1 t0 p1 p0 l1 l0 u fn : Byte) (pl : Bytes) :
    decodeTcp (t1 :: t0 :: p1 :: p0 :: l1 :: l0 :: u :: fn :: pl) =
      if (join16 l0 l1).toNat = 2 + pl.length then .ok ⟨join16 t0 t1, join16 p0 p1, u, fn, pl⟩
      else .error .lengthMismatch := by
  have hlen : (t1 :: t0 :: p1 :: p0 :: l1 :: l0 :: u :: fn :: pl).length - 6 = 2 + pl.length := by
    simp only [List.length_cons]
    omega
  rw [decodeTcp, if_neg (by simp), hlen]
  rfl

/-! ### Wire bytes and frames -/

section Wire

variable {b : Bytes} {f : TcpFrame}

/-- The MBAP length of a frame whose length field fits 16 bits, as that field holds it (R142). -/
theorem toNat_ofNat_mbapLength (h : f.payload.length ≤ 65533) :
    (BitVec.ofNat 16 (mbapLength f)).toNat = 2 + f.payload.length := by
  rw [BitVec.toNat_ofNat, mbapLength]
  exact Nat.mod_eq_of_lt (by omega)

/-- TO_BYTES writes a frame whose length field fits 16 bits (R142). -/
theorem toBytes_tcp_of_le (h : f.payload.length ≤ 65533) : toBytes (.tcp f) = some (tcpBytes f) :=
  if_neg (by rw [mbapLength]; omega)

/-- TO_BYTES writes no frame whose length field does not (R142, D9). -/
theorem toBytes_tcp_of_lt (h : 65533 < f.payload.length) : toBytes (.tcp f) = none :=
  if_pos (by rw [mbapLength]; omega)

/-- DECODE_TCP reads a frame's wire bytes back (R143). -/
theorem decodeTcp_tcpBytes (h : f.payload.length ≤ 65533) : decodeTcp (tcpBytes f) = .ok f := by
  rw [tcpBytes, be16, be16, be16]
  refine (decodeTcp_header ..).trans ?_
  rw [join16_lo8_hi8, join16_lo8_hi8, join16_lo8_hi8, toNat_ofNat_mbapLength h, if_pos rfl]

/-- A frame that DECODE_TCP answers: its payload's length can be declared, and its wire bytes are the operand (R143). -/
theorem decodeTcp_ok (h : decodeTcp b = .ok f) : f.payload.length ≤ 65533 ∧ tcpBytes f = b := by
  have hlen : 8 ≤ b.length := by
    by_contra hshort
    rw [decodeTcp_of_length_lt_eight (not_le.mp hshort)] at h
    cases h
  obtain ⟨t1, t0, p1, p0, l1, l0, u, fn, pl, rfl⟩ := exists_header_of_eight_le hlen
  rw [decodeTcp_header] at h
  split at h
  · next hdeclared =>
    cases h
    have hle : pl.length ≤ 65533 := by
      have hword := (join16 l0 l1).isLt
      omega
    have hfield : BitVec.ofNat 16 (2 + pl.length) = join16 l0 l1 := by
      rw [← hdeclared, BitVec.ofNat_toNat, BitVec.setWidth_eq]
    refine ⟨hle, ?_⟩
    rw [tcpBytes, mbapLength, hfield, be16_join16, be16_join16, be16_join16]
    rfl
  · cases h

end Wire

/-! ### The header, written out -/

/-- The high byte of a number's 16-bit field (R13). -/
theorem hi8_ofNat (n : Nat) : hi8 (BitVec.ofNat 16 n) = BitVec.ofNat 8 (n / 256) := by
  apply BitVec.eq_of_toNat_eq
  simp only [hi8, BitVec.extractLsb'_toNat, BitVec.toNat_ofNat, Nat.shiftRight_eq_div_pow]
  omega

/-- The low byte of a number's 16-bit field (R13). -/
theorem lo8_ofNat (n : Nat) : lo8 (BitVec.ofNat 16 n) = BitVec.ofNat 8 n := by
  apply BitVec.eq_of_toNat_eq
  simp only [lo8, BitVec.extractLsb'_toNat, BitVec.toNat_ofNat, Nat.shiftRight_zero]
  omega

/-- The wire bytes of a frame, written out (R142). -/
theorem shift_setWidth_header_eq_tcpBytes (f : TcpFrame) :
    [(f.transactionId >>> 8).setWidth 8, f.transactionId.setWidth 8,
      (f.protocolId >>> 8).setWidth 8, f.protocolId.setWidth 8,
      BitVec.ofNat 8 ((2 + f.payload.length) / 256), BitVec.ofNat 8 (2 + f.payload.length),
      f.unitId, f.function] ++ f.payload = tcpBytes f := by
  rw [tcpBytes, ← shift_setWidth_pair_eq_be16, ← shift_setWidth_pair_eq_be16, be16, hi8_ofNat, lo8_ofNat]
  rfl

/-! ### The operations -/

/-- The value that a TCP decoder's outcome is answered as (R141, R226). -/
def tcpResult : Except FrameError TcpFrame → CmdResult
  | .ok f => .frame (.tcp f)
  | .error reason => .frameError reason

/-- DECODE_TCP answers the frame or the FrameError there is, and changes the result alone (R141, R226). -/
theorem exec_decodeTcp (b : Bytes) (s : State) : exec (.decodeTcp b) s = answer (tcpResult (decodeTcp b)) s := by
  rw [exec, execDecodeTcp]
  cases decodeTcp b with
  | ok f => rfl
  | error reason => rfl

/-- Only the outcome that holds a frame is answered as that frame. -/
theorem eq_ok_of_tcpResult_eq {r : Except FrameError TcpFrame} {f : TcpFrame} (h : tcpResult r = .frame (.tcp f)) :
    r = .ok f := by
  cases r with
  | ok g => cases h; rfl
  | error reason => cases h

/-- TO_BYTES is refused where there are no bytes (R142, R166). -/
theorem exec_toBytes_of_none {f : Frame} (h : toBytes f = none) (s : State) :
    exec (.toBytes f) s = .refused .tcpPayloadTooLong := by
  simp only [exec, execToBytes, h]

/-! ### The statements -/

/-- Settles O10: the fields are numbers, and so is the declared length that decides between the two outcomes. -/
theorem decodeTcpOutcomes : Obligations.DecodeTcpOutcomes := by
  refine ⟨fun b s hlen => ?_, fun t1 t0 p1 p0 l1 l0 u fn pl s => ?_⟩
  · rw [exec_decodeTcp, decodeTcp_of_length_lt_eight hlen]
    rfl
  · have hword (hi lo : Byte) : BitVec.ofNat 16 (256 * hi.toNat + lo.toNat) = join16 lo hi := by
      rw [Nat.add_comm, ofNat_eq_join16]
    rw [exec_decodeTcp, decodeTcp_header, toNat_join16, Nat.add_comm l0.toNat, apply_ite tcpResult, hword, hword]
    rfl

/-- Settles O12: a decoded frame's wire bytes are the operand, and an encodable frame is read back from its own. -/
theorem tcpRoundTrip : Obligations.TcpRoundTrip := by
  refine ⟨fun b f s s' hexec hresult => ?_, fun f s hlen => ?_⟩
  · rw [exec_decodeTcp] at hexec
    cases hexec
    obtain ⟨hlen, hbytes⟩ := decodeTcp_ok (eq_ok_of_tcpResult_eq (Option.some.inj hresult))
    exact exec_toBytes ((toBytes_tcp_of_le hlen).trans (congrArg some hbytes)) _
  · refine ⟨tcpBytes f, exec_toBytes (toBytes_tcp_of_le hlen) s, ?_⟩
    rw [exec_decodeTcp, decodeTcp_tcpBytes hlen]
    rfl

/-- Settles O11: the header is written from the fields, and the length field bounds the payload. -/
theorem toBytesTcpRecomputesTheLength : Obligations.ToBytesTcpRecomputesTheLength := by
  refine fun f s => ⟨fun hlen => ?_, fun hlong => exec_toBytes_of_none (toBytes_tcp_of_lt hlong) s⟩
  rw [shift_setWidth_header_eq_tcpBytes]
  exact exec_toBytes (toBytes_tcp_of_le hlen) s

end Sys2Proof.Machine
end

section
/-! SUPPORT. The operations over both variants of a frame (spec/44_frame_ops.md R160 to R167): what each of them
answers, what it leaves of its operand, and how a response is built from them. Settles O20, O13, O14, O15 and O16. -/

namespace Sys2Proof.Machine

/-! ### The answers -/

section Exec

variable (f : Frame) (s : State)

/-- GET_ADDRESS always answers (R160). -/
theorem exec_getAddress : exec (.getAddress f) s = answer (.byte (frameAddress f)) s := rfl

/-- GET_FUNCTION always answers (R161). -/
theorem exec_getFunction : exec (.getFunction f) s = answer (.byte (frameFunction f)) s := rfl

/-- GET_PAYLOAD always answers (R162). -/
theorem exec_getPayload : exec (.getPayload f) s = answer (.bytes (framePayload f)) s := rfl

/-- SET_PAYLOAD always answers (R163). -/
theorem exec_setPayload (payload : Bytes) :
    exec (.setPayload f payload) s = answer (.frame (setPayload f payload)) s := rfl

/-- COPY_AS_RESPONSE answers its operand (R165). -/
theorem exec_copyAsResponse : exec (.copyAsResponse f) s = answer (.frame f) s := rfl

/-- SET_EXCEPTION is refused for the code of Success (R164, D12). -/
theorem exec_setException_zero : exec (.setException f 0#8) s = .refused .successIsNotAnException := by
  rw [exec, execSetException, if_pos rfl]

end Exec

/-! ### A new payload -/

section SetPayload

variable (f : Frame) (payload : Bytes)

/-- SET_PAYLOAD keeps the variant and the addressing (R163). -/
theorem sameAddressing_setPayload : SameAddressing f (setPayload f payload) := by
  cases f with
  | rtu g => exact rfl
  | tcp g => exact ⟨rfl, rfl, rfl⟩

/-- SET_PAYLOAD keeps the function byte (R163). -/
theorem frameFunction_setPayload : frameFunction (setPayload f payload) = frameFunction f := by
  cases f with
  | rtu g => rfl
  | tcp g => rfl

/-- GET_PAYLOAD reads what SET_PAYLOAD wrote (R162, R163). -/
theorem framePayload_setPayload : framePayload (setPayload f payload) = payload := by
  cases f with
  | rtu g => rfl
  | tcp g => rfl

end SetPayload

/-- SET_PAYLOAD of a frame's own payload: the CRC computed again is the one that R23 says the frame has (R163). -/
theorem setPayload_framePayload {f : Frame} (h : f.wellFormed = true) : setPayload f (framePayload f) = f := by
  cases f with
  | rtu g => exact congrArg Frame.rtu (sealRtu_of_wellFormed h)
  | tcp g => rfl

/-! ### An exception -/

section SetException

variable (f : Frame) (e : Byte)

/-- SET_EXCEPTION keeps the variant and the addressing (R164). -/
theorem sameAddressing_setException : SameAddressing f (setException f e) := by
  cases f with
  | rtu g => exact rfl
  | tcp g => exact ⟨rfl, rfl, rfl⟩

/-- SET_EXCEPTION sets bit 7 of the function byte (R164). -/
theorem frameFunction_setException : frameFunction (setException f e) = setExceptionBit (frameFunction f) := by
  cases f with
  | rtu g => rfl
  | tcp g => rfl

/-- SET_EXCEPTION makes the code the payload (R164). -/
theorem framePayload_setException : framePayload (setException f e) = [e] := by
  cases f with
  | rtu g => rfl
  | tcp g => rfl

end SetException

/-! ### The contract of a response -/

/-- Success has the code 0 (R78), which SET_EXCEPTION refuses. -/
theorem ne_success_of_exceptionCode_ne_zero {ex : ModbusException} (h : exceptionCode ex ≠ 0#8) :
    ex ≠ .success := by
  rintro rfl
  exact h rfl

/-- Success: the handler's payload is set on a copy of the request (R167). -/
theorem buildResponse_success (f : Frame) (payload : Bytes) :
    buildResponse f payload .success = setPayload f payload := if_pos rfl

/-- An exception: its code is set on a copy of the request, and the handler's payload is not used (R167). -/
theorem buildResponse_of_ne_success {ex : ModbusException} (h : ex ≠ .success) (f : Frame) (payload : Bytes) :
    buildResponse f payload ex = setException f (exceptionCode ex) := if_neg h

/-! ### The statements -/

/-- Settles O20: the copy is the request, and both responses keep its addressing and are what the contract builds. -/
theorem responseKeepsTheRequestsAddressing : Obligations.ResponseKeepsTheRequestsAddressing := by
  refine fun f s => ⟨f, exec_copyAsResponse f s, fun payload => ?_, fun e he => ?_⟩
  · exact ⟨setPayload f payload, exec_setPayload f s payload, sameAddressing_setPayload f payload,
      frameFunction_setPayload f payload, framePayload_setPayload f payload, buildResponse_success f payload⟩
  · refine ⟨setException f e, exec_setException he f s, sameAddressing_setException f e,
      frameFunction_setException f e, framePayload_setException f e, ?_⟩
    rintro ex payload rfl
    exact buildResponse_of_ne_success (ne_success_of_exceptionCode_ne_zero he) f payload

/-- Settles O13: each accessor answers its field, whatever the variant. -/
theorem accessorsAnswerTheFields : Obligations.AccessorsAnswerTheFields := fun f g s =>
  ⟨exec_getAddress (.rtu f) s, exec_getAddress (.tcp g) s, exec_getFunction (.rtu f) s, exec_getFunction (.tcp g) s,
    exec_getPayload (.rtu f) s, exec_getPayload (.tcp g) s⟩

/-- Settles O14: on a frame's own payload, SET_PAYLOAD changes nothing, as its CRC is already the one computed. -/
theorem setPayloadReplacesOnlyThePayload : Obligations.SetPayloadReplacesOnlyThePayload := by
  refine ⟨fun f payload s => exec_setPayload (.rtu f) s payload,
    fun g payload s => exec_setPayload (.tcp g) s payload, fun f s hwf => ?_⟩
  rw [exec_setPayload, setPayload_framePayload hwf]
  rfl

/-- Settles O15: SET_EXCEPTION answers for every code but that of Success. -/
theorem setExceptionSetsTheBitAndCode : Obligations.SetExceptionSetsTheBitAndCode :=
  ⟨fun f _ s he => exec_setException he (.rtu f) s, fun g _ s he => exec_setException he (.tcp g) s,
    exec_setException_zero⟩

/-- Settles O16: a frame is its fields. -/
theorem copyAsResponseIsIdentical : Obligations.CopyAsResponseIsIdentical :=
  ⟨fun f s => exec_copyAsResponse (.rtu f) s, fun g s => exec_copyAsResponse (.tcp g) s⟩

end Sys2Proof.Machine
end

section
/-! SUPPORT. The step kinds run forwards (spec/45_reassembler.md R180 to R193): what selects a step of a RUNNING port,
and the state after each selected kind. Settles O27 and O29 to O37. -/

namespace Sys2Proof.Machine

/-! ### The event of a step -/

/-- The event of a read (R86, R182). -/
def ReadResult.event : ReadResult → Event
  | .data _ => .data
  | .empty => .empty
  | .error => .empty

section Running

variable {s : State} {p : Nat} {q : Port} {k : StepKind}

/-- The event of a step that reads is that of its read. -/
theorem stepEvent_of_read {r : ReadResult} {st : Stream} (hs : s.shutdown = false)
    (hread : portStepRead s.cfg p q = some (r, st)) : stepEvent s p q = r.event := by
  rw [stepEvent_eq s p q hs, hread]
  cases r <;> rfl

/-- A step in READY has no event (R86). -/
theorem stepEvent_of_ready (hs : s.shutdown = false) (hp : q.ls.phase = .ready) : stepEvent s p q = .none := by
  rw [stepEvent_eq s p q hs, portStepRead_none.mpr hp]

/-! ### The state after a selected step -/

/-- A selected reading step makes its read and updates the ListenState from the bytes read. -/
theorem exec_read {update : Bytes → ListenState → ListenState} {r : ReadResult} {st : Stream}
    (hq : s.ports[p]? = some q) (hr : q.run = .running) (hrow : (stepKey s p q).InRow k)
    (hu : readUpdate s.cfg k = some update) (hread : portStepRead s.cfg p q = some (r, st)) :
    exec (k.instr p) s = .next (s.setPort p { q with ls := update r.bytes q.ls, stream := st }) := by
  have hstep : readingStep k p s update = .next (s.setPort p { q with ls := update r.bytes q.ls, stream := st }) := by
    rw [readingStep, portStep_selected hq hr (kindOf_of_inRow hrow), hread]
  cases k with
  | idleDrain | idleAdvance | silAppend | silWait | silBoundary | fixAppend | fixWait | fixAbort =>
    cases hu
    exact hstep
  | shutdown | readyError | readyInvalid | readyEmit | readyBcastDrop => cases hu

/-- A selected discarding step ends the frame attempt. -/
theorem exec_discard (hq : s.ports[p]? = some q) (hr : q.run = .running) (hrow : (stepKey s p q).InRow k)
    (hk : k = .readyError ∨ k = .readyInvalid ∨ k = .readyBcastDrop) :
    exec (k.instr p) s = .next (s.setPort p { q with ls := ListenState.reset }) := by
  have hstep : discardAttempt k p s = .next (s.setPort p { q with ls := ListenState.reset }) := by
    rw [discardAttempt, portStep_selected hq hr (kindOf_of_inRow hrow), toIdle_eq_reset]
  obtain rfl | rfl | rfl := hk
  · exact hstep
  · exact hstep
  · exact hstep

/-- A selected RA_SHUTDOWN stops its port (R183). -/
theorem exec_raShutdown (hq : s.ports[p]? = some q) (hr : q.run = .running) (hs : s.shutdown = true) :
    exec (.raShutdown p) s = .next (s.setPort p { q with run := .stopped }) :=
  portStep_selected hq hr (kindOf_shutdown s p q hs)

section Emit

variable {handle : Nat} {f : RtuFrame} {sink : Sink} (hq : s.ports[p]? = some q) (hr : q.run = .running)
  (hrow : (stepKey s p q).InRow .readyEmit) (hhandle : s.cfg.portIds[p]? = some handle)
  (hd : decodeRtu q.ls.packet = .ok f)

include hq hr hrow hhandle hd

/-- A selected RA_READY_EMIT whose Request the sink accepts ends the frame attempt (R191). -/
theorem exec_raReadyEmit_accept (hemit : emit { port := handle, frame := f } s.sink = (true, sink)) :
    exec (.raReadyEmit p) s = .next ((s.setSink sink).setPort p { q with ls := ListenState.reset }) := by
  have hbody : execRaReadyEmit p s = .next ((s.setSink sink).setPort p { q with ls := ListenState.reset }) := by
    rw [execRaReadyEmit, portStep_selected hq hr (kindOf_of_inRow hrow), hhandle, hd]
    simp only [hemit, toIdle_eq_reset]
  exact hbody

/-- A selected RA_READY_EMIT whose Request the sink does not accept holds (R191). -/
theorem exec_raReadyEmit_hold (hemit : emit { port := handle, frame := f } s.sink = (false, sink)) :
    exec (.raReadyEmit p) s = .next (s.setSink sink) := by
  have hbody : execRaReadyEmit p s = .next (s.setSink sink) := by
    rw [execRaReadyEmit, portStep_selected hq hr (kindOf_of_inRow hrow), hhandle, hd]
    simp only [hemit]
  exact hbody

end Emit

/-- A scheduled port takes the step of the one kind that answers. -/
theorem step_of_exec {s' : State} {rest : List Turn} (hc : s.cfg.Legal) (hsched : s.schedule = .port p :: rest)
    (h : exec (k.instr p) (s.setSchedule rest) = .next s') : step s = .next s' := by
  obtain ⟨q, hport, hrun, hsel, _⟩ := exec_stepKind_next h
  rw [step_cons hc hsched]
  exact (runFetched_fetchPort_running hport hrun hsel).trans h

end Running

/-! ### What selects a READY step -/

/-- The verdict on a packet that does not decode. -/
theorem verdictOf_error {packet : Bytes} {reason : FrameError} (hd : decodeRtu packet = .error reason) :
    verdictOf packet = .frameError := by
  simp only [verdictOf, hd]

/-- The verdict on a packet that decodes to an address-0 frame. -/
theorem verdictOf_broadcast {packet : Bytes} {f : RtuFrame} (hd : decodeRtu packet = .ok f)
    (hf : f.address = 0#8) : verdictOf packet = .broadcast := by
  simp only [verdictOf, hd, hf, if_true]

/-- The verdict on a packet that decodes to any other frame. -/
theorem verdictOf_addressed {packet : Bytes} {f : RtuFrame} (hd : decodeRtu packet = .ok f)
    (hf : f.address ≠ 0#8) : verdictOf packet = .addressed := by
  simp only [verdictOf, hd, hf, if_false]

/-- RA_READY_EMIT is selected where the packet decodes and its frame is not a broadcast to drop (R191, R193). -/
theorem inRow_readyEmit {s : State} {p : Nat} {q : Port} {f : RtuFrame} (hs : s.shutdown = false)
    (hp : q.ls.phase = .ready) (he : q.ls.error = false) (hd : decodeRtu q.ls.packet = .ok f)
    (hf : f.address ≠ 0#8 ∨ s.cfg.broadcast = .emit) : (stepKey s p q).InRow .readyEmit := by
  refine ⟨stepEvent_of_ready hs hp, hp, he, ?_⟩
  by_cases h0 : f.address = 0#8
  · exact .inr ⟨verdictOf_broadcast hd h0, hf.resolve_left (not_not_intro h0)⟩
  · exact .inl (verdictOf_addressed hd h0)

/-! ### The sink's answer -/

/-- An accepting answer: the log grows by the Request (R31). -/
theorem emit_of_sinkAnswer_true {k k' : Sink} (h : sinkAnswer k = (true, k')) (r : Request) :
    emit r k = (true, { k' with accepted := k'.accepted ++ [r] }) := by
  simp only [emit, h]

/-- A refusing answer: the log stays (R31). -/
theorem emit_of_sinkAnswer_false {k k' : Sink} (h : sinkAnswer k = (false, k')) (r : Request) :
    emit r k = (false, k') := by
  simp only [emit, h]

/-- An answer leaves the log of accepted Requests. -/
theorem sinkAnswer_accepted (k : Sink) : (sinkAnswer k).2.accepted = k.accepted := by
  unfold sinkAnswer
  split <;> rfl

/-! ### The appends in closed form -/

/-- A bounded append: the bytes that fit, and the flag where some do not (R189). -/
theorem appendBounded_eq {c : Cfg} {ls : ListenState} (h : ls.packet.length ≤ c.maxFrame) (bs : Bytes) :
    appendBounded c bs ls =
      { ls with
        packet := (ls.packet ++ bs).take c.maxFrame
        error := ls.error || decide (c.maxFrame < (ls.packet ++ bs).length) } := by
  unfold appendBounded
  by_cases hover : c.maxFrame - ls.packet.length < bs.length
  · have hlen : c.maxFrame < (ls.packet ++ bs).length := by rw [List.length_append]; omega
    simp only [raiseError, hover, if_true, List.take_append, List.take_of_length_le h, hlen, decide_true, Bool.or_true]
  · have hlen : (ls.packet ++ bs).length ≤ c.maxFrame := by rw [List.length_append]; omega
    simp only [hover, if_false, List.take_of_length_le hlen, not_lt.mpr hlen, decide_false, Bool.or_false]

/-! ### The statements -/

/-- Settles O27: SHUTDOWN comes before every phase rule, and a STOPPED port takes no step. -/
theorem shutdownStopsThePort : Obligations.ShutdownStopsThePort := by
  intro s p q hq hr hs
  refine ⟨exec_raShutdown hq hr hs, fun rest hc hsched => ⟨?_, fun t later hct hqt hst => ?_⟩⟩
  · exact step_of_exec (k := .shutdown) hc hsched (exec_raShutdown (s := s.setSchedule rest) hq hr hs)
  · exact stoppedPortTakesNoStep t p _ later hct hqt rfl hst

/-- Settles O29: data selects RA_IDLE_DRAIN, an empty read RA_IDLE_ADVANCE. -/
theorem idleDrainsOrStartsAnAttempt : Obligations.IdleDrainsOrStartsAnAttempt := by
  rintro s p q st ⟨hq, hr, hs, hp⟩
  refine ⟨fun bs hread => ?_, fun hread => ?_⟩
  · exact exec_read (k := .idleDrain) hq hr ⟨stepEvent_of_read hs hread, hp⟩ rfl hread
  · have h := exec_read (k := .idleAdvance) hq hr ⟨stepEvent_of_read hs hread, hp⟩ rfl hread
    cases hf : s.cfg.framing <;> simpa [newAttempt, hf, prefixLen, StepKind.instr] using h

/-- Settles O30: data selects RA_SIL_APPEND. -/
theorem silenceAppendIsBounded : Obligations.SilenceAppendIsBounded := by
  rintro s p q st bs ⟨hq, hr, hs, hp⟩ hf hlen hread
  have h := exec_read (k := .silAppend) hq hr ⟨stepEvent_of_read hs hread, hp, hf⟩ rfl hread
  rwa [bytes_data, appendBounded_eq hlen bs, hp] at h

/-- Settles O31: the packet decides between RA_SIL_WAIT and RA_SIL_BOUNDARY. -/
theorem silenceEmptyReadWaitsOrEndsTheFrame : Obligations.SilenceEmptyReadWaitsOrEndsTheFrame := by
  rintro s p q st ⟨hq, hr, hs, hp⟩ hf hread
  have he := stepEvent_of_read hs hread
  refine ⟨fun hnil => ?_, fun hne => ?_⟩
  · exact exec_read (k := .silWait) hq hr ⟨he, hp, hf, by simp [stepKey, hnil]⟩ rfl hread
  · exact exec_read (k := .silBoundary) hq hr ⟨he, hp, hf, by simp [stepKey, hne]⟩ rfl hread

/-- Settles O32: data selects RA_FIX_APPEND, whose cases are those of the append and of the sizing. -/
theorem fixedAppendSizesTheFrame : Obligations.FixedAppendSizesTheFrame := by
  rintro s p q st bs ⟨hq, hr, hs, hp⟩ hf hread
  have h := exec_read (k := .fixAppend) hq hr ⟨stepEvent_of_read hs hread, hp, hf⟩ rfl hread
  refine h.trans ?_
  rw [bytes_data, ← hp]
  obtain ⟨hlt, heq⟩ | ⟨hge, hne, heq⟩ | ⟨hge, h8, heq⟩ := appendFixed_cases s.cfg bs q.ls
  · rw [heq, if_pos hlt]
  · rw [heq, if_neg (not_lt.mpr hge), if_pos hne]
    rfl
  · rw [heq, if_neg (not_lt.mpr hge), if_neg (not_not_intro h8)]
    obtain ⟨hover, hsize⟩ | ⟨hfit, hlen, hsize⟩ | ⟨hfit, hlen, hsize⟩ :=
      sizePrefix_cases s.cfg { q.ls with packet := q.ls.packet ++ bs, expected := 0 }
    · rw [hsize, if_pos hover]
      rfl
    · rw [hsize, if_neg (not_lt.mpr hfit), if_pos hlen]
      rfl
    · rw [hsize, if_neg (not_lt.mpr hfit), if_neg hlen]

/-- Settles O33: the packet decides between RA_FIX_WAIT and RA_FIX_ABORT. -/
theorem fixedEmptyReadWaitsOrAborts : Obligations.FixedEmptyReadWaitsOrAborts := by
  rintro s p q st ⟨hq, hr, hs, hp⟩ hf hread
  have he := stepEvent_of_read hs hread
  refine ⟨fun hnil => ?_, fun hne => ?_⟩
  · exact exec_read (k := .fixWait) hq hr ⟨he, hp, hf, by simp [stepKey, hnil]⟩ rfl hread
  · exact exec_read (k := .fixAbort) hq hr ⟨he, hp, hf, by simp [stepKey, hne]⟩ rfl hread

/-- Settles O34: the error flag selects RA_READY_ERROR, before the packet is looked at. -/
theorem erroredAttemptIsDiscarded : Obligations.ErroredAttemptIsDiscarded := by
  rintro s p q ⟨hq, hr, hs, hp⟩ he
  exact exec_discard (k := .readyError) hq hr ⟨stepEvent_of_ready hs hp, hp, he⟩ (.inl rfl)

/-- Settles O35: a FrameError, of either reason, selects RA_READY_INVALID. -/
theorem invalidFrameIsDiscarded : Obligations.InvalidFrameIsDiscarded := by
  rintro s p q reason ⟨hq, hr, hs, hp⟩ he hd
  exact exec_discard (k := .readyInvalid) hq hr ⟨stepEvent_of_ready hs hp, hp, he, verdictOf_error hd⟩ (.inr (.inl rfl))

/-- Settles O36: the frame selects RA_READY_EMIT, and the sink's answer decides. -/
theorem readyEmitsOrHolds : Obligations.ReadyEmitsOrHolds := by
  rintro s p q f handle ⟨hq, hr, hs, hp⟩ he hd hf hhandle
  have hrow := inRow_readyEmit (p := p) hs hp he hd hf
  have hlog {a : Bool} {k : Sink} (h : sinkAnswer s.sink = (a, k)) : k.accepted = s.sink.accepted := by
    rw [← sinkAnswer_accepted s.sink, h]
  refine ⟨fun k h => ?_, fun k h => ?_, fun a more h => ?_, fun h => ?_⟩
  · rw [← hlog h]
    exact exec_raReadyEmit_accept hq hr hrow hhandle hd (emit_of_sinkAnswer_true h _)
  · rw [← hlog h]
    exact exec_raReadyEmit_hold hq hr hrow hhandle hd (emit_of_sinkAnswer_false h _)
  · simp only [sinkAnswer, h]
  · simp only [sinkAnswer, h]

/-- Settles O37: an address-0 frame under DROP selects RA_READY_BCAST_DROP. -/
theorem broadcastIsDroppedUnderDrop : Obligations.BroadcastIsDroppedUnderDrop := by
  rintro s p q f ⟨hq, hr, hs, hp⟩ he hd h0 hdrop
  exact exec_discard (k := .readyBcastDrop) hq hr
    ⟨stepEvent_of_ready hs hp, hp, he, verdictOf_broadcast hd h0, hdrop⟩ (.inr (.inr rfl))

end Sys2Proof.Machine
end

section
/-! SUPPORT. A port's step as seen from outside: it depends on its own port, CFG, SHUTDOWN and the sink alone, writes
its own port, and makes one read or emits one Request; what a read that finds nothing does (spec/45_reassembler.md R180,
R182, R194, R195, R197). Settles O44, O45, O47, O42 and O38. -/

namespace Sys2Proof.Machine

/-! ### Independence of the other ports -/

/-- `s` and `t` look alike to port `p`: they agree on CFG, the SHUTDOWN input, the sink and the port itself. -/
structure AgreeAt (p : Nat) (s t : State) : Prop where
  cfg : t.cfg = s.cfg
  shutdown : t.shutdown = s.shutdown
  sink : t.sink = s.sink
  port : t.ports[p]? = s.ports[p]?

section Independence

variable {s t s' : State} {p : Nat} {k : StepKind} {q : Port}

/-- States that look alike to a port select the same step of it. -/
theorem AgreeAt.stepKey_eq (h : AgreeAt p s t) (q : Port) : stepKey t p q = stepKey s p q := by
  simp only [stepKey, stepEvent, h.cfg, h.shutdown]

/-- Everything an RA_READY_EMIT that answers a next state has done: it had a handle and a frame, and its Emit was
accepted or held (R191). -/
theorem exec_raReadyEmit_next (h : exec (.raReadyEmit p) s = .next s') :
    ∃ q handle f sink, s.ports[p]? = some q ∧ q.run = .running ∧ (stepKey s p q).InRow .readyEmit ∧
      s.cfg.portIds[p]? = some handle ∧ decodeRtu q.ls.packet = .ok f ∧
      (emit { port := handle, frame := f } s.sink = (true, sink) ∧
          s' = (s.setSink sink).setPort p { q with ls := ListenState.reset } ∨
        emit { port := handle, frame := f } s.sink = (false, sink) ∧ s' = s.setSink sink) := by
  obtain ⟨q, hq, hr, hk, hbody⟩ := portStep_next h
  split at hbody
  · cases hbody
  · cases hbody
  · next handle f hhandle hd =>
    obtain ⟨sink, hemit, _⟩ | ⟨sink, hemit, _⟩ := emit_cases { port := handle, frame := f } s.sink
    · rw [hemit] at hbody
      cases hbody
      exact ⟨q, handle, f, sink, hq, hr, inRow_of_kindOf hk, hhandle, hd, .inl ⟨hemit, rfl⟩⟩
    · rw [hemit] at hbody
      cases hbody
      exact ⟨q, handle, f, sink, hq, hr, inRow_of_kindOf hk, hhandle, hd, .inr ⟨hemit, rfl⟩⟩

/-- Where `t` looks to port `p` as `s` does, a step of `p` answers there too, with the same port and the same sink. -/
def AnswersAlike (p : Nat) (k : StepKind) (s' t : State) : Prop :=
  ∃ t', exec (k.instr p) t = .next t' ∧ t'.ports[p]? = s'.ports[p]? ∧ t'.sink = s'.sink

/-- A step that replaces the port's record alone answers alike. -/
theorem AgreeAt.answersAlike_setPort {q' : Port} (h : AgreeAt p s t) (hq : s.ports[p]? = some q)
    (hexec : exec (k.instr p) t = .next (t.setPort p q')) : AnswersAlike p k (s.setPort p q') t := by
  have hqt : t.ports[p]? = some q := h.port.trans hq
  exact ⟨_, hexec, by rw [State.setPort_self _ _ _ hqt, State.setPort_self _ _ _ hq], h.sink⟩

/-- An RA_READY_EMIT answers alike: the sink gives both the same answer. -/
theorem AgreeAt.answersAlike_raReadyEmit (h : AgreeAt p s t) (hs : exec (.raReadyEmit p) s = .next s') :
    AnswersAlike p .readyEmit s' t := by
  obtain ⟨q, handle, f, sink, hq, hr, hrow, hhandle, hd, hemit⟩ := exec_raReadyEmit_next hs
  have hqt : t.ports[p]? = some q := h.port.trans hq
  rw [← h.stepKey_eq] at hrow
  rw [← h.cfg] at hhandle
  rw [← h.sink] at hemit
  obtain ⟨hemit, rfl⟩ | ⟨hemit, rfl⟩ := hemit
  · refine ⟨_, exec_raReadyEmit_accept hqt hr hrow hhandle hd hemit, ?_, rfl⟩
    rw [State.setPort_self _ _ _ (by simpa using hqt), State.setPort_self _ _ _ (by simpa using hq)]
  · exact ⟨_, exec_raReadyEmit_hold hqt hr hrow hhandle hd hemit, h.port, rfl⟩

/-- Every step kind of a port answers alike in states that look alike to the port (R197). -/
theorem AgreeAt.answersAlike (h : AgreeAt p s t) (hs : exec (k.instr p) s = .next s') : AnswersAlike p k s' t := by
  obtain ⟨q, hq, hr, hk, heffect⟩ := exec_stepKind_next hs
  have hqt : t.ports[p]? = some q := h.port.trans hq
  have hrow : (stepKey t p q).InRow k := by
    rw [h.stepKey_eq]
    exact inRow_of_kindOf hk
  cases heffect with
  | stop => exact h.answersAlike_setPort hq (portStep_selected hqt hr (kindOf_of_inRow hrow))
  | read hu hread =>
    rw [← h.cfg] at hu hread
    exact h.answersAlike_setPort hq (exec_read hqt hr hrow hu hread)
  | discard hd => exact h.answersAlike_setPort hq (exec_discard hqt hr hrow hd)
  | accept => exact h.answersAlike_raReadyEmit hs
  | hold => exact h.answersAlike_raReadyEmit hs

/-- The Requests a step of port `p` adds to the log carry the port's handle (R31). -/
theorem PortStepped.added (h : PortStepped s p k q s') :
    ∃ added, s'.sink.accepted = s.sink.accepted ++ added ∧ ∀ r ∈ added, s.cfg.portIds[p]? = some r.port := by
  have nothing {a b : List Request} (hab : a = b) :
      ∃ added, a = b ++ added ∧ ∀ r ∈ added, s.cfg.portIds[p]? = some r.port := ⟨[], by simp [hab], by simp⟩
  cases h.effect with
  | stop => exact nothing rfl
  | read => exact nothing rfl
  | discard => exact nothing rfl
  | accept hhandle hd hacc => exact ⟨_, hacc, by simp [hhandle]⟩
  | hold hacc => exact nothing hacc

end Independence

/-! ### One read or one Emit -/

section Streams

variable {s : State} {p : Nat} {q : Port}

/-- Replacing a port's record by one with the same byte source leaves every byte source. -/
theorem setPort_streams_of_same {q' : Port} (hq : s.ports[p]? = some q) (hst : q'.stream = q.stream) :
    (s.setPort p q').streams = s.streams := by
  obtain ⟨hp, hget⟩ := List.getElem?_eq_some_iff.mp hq
  have hmap : (s.ports.map Port.stream).set p q'.stream = s.ports.map Port.stream := by
    rw [hst, ← hget, ← List.getElem_map Port.stream (h := by simpa using hp), List.set_getElem_self]
  simp only [State.streams, State.setPort_ports, State.setPort_parked, List.map_set, hmap]

end Streams

/-! ### What stops a port -/

section Stops

variable {s s' : State} {p : Nat} {q : Port} {k : StepKind}

/-- The event is SHUTDOWN only while the input is asserted (R86, R225). -/
theorem shutdown_of_stepEvent (h : stepEvent s p q = .shutdown) : s.shutdown = true := by
  by_contra hs
  rw [stepEvent_eq s p q (by simpa using hs)] at h
  split at h <;> cases h

/-- A record that is replaced by one with the same run state stops no port. -/
theorem run_of_setPort {j : Nat} {q' a b : Port} (hq : s.ports[p]? = some q) (ha : s.ports[j]? = some a)
    (hb : (s.setPort p q').ports[j]? = some b) (hrun : q'.run = q.run) : b.run = a.run := by
  by_cases hj : p = j
  · subst hj
    rw [State.setPort_self _ _ _ hq] at hb
    cases hb
    cases hq.symm.trans ha
    exact hrun
  · rw [State.setPort_other _ _ _ hj] at hb
    cases ha.symm.trans hb
    rfl

/-- While SHUTDOWN is deasserted a step changes no run state: only RA_SHUTDOWN stops a port (R183, R194). -/
theorem PortStepped.run_eq (h : PortStepped s p k q s') (hs : s.shutdown = false) {j : Nat} {a b : Port}
    (ha : s.ports[j]? = some a) (hb : s'.ports[j]? = some b) : b.run = a.run := by
  obtain ⟨hq, _, hk, heffect⟩ := h
  cases heffect with
  | stop =>
    have hasserted := shutdown_of_stepEvent (inRow_of_kindOf hk)
    rw [hs] at hasserted
    cases hasserted
  | read => exact run_of_setPort hq ha hb rfl
  | discard => exact run_of_setPort hq ha hb rfl
  | @accept _ _ sink => exact run_of_setPort (s := s.setSink sink) hq ha hb rfl
  | hold =>
    cases ha.symm.trans hb
    rfl

end Stops

/-! ### Reads that find nothing -/

section Gap

variable {c : Cfg} {s : State} {p : Nat} {q : Port}

/-- Outside READY every step of a port that keeps its invariant reads at most some nonzero number of bytes (R184,
R185). -/
theorem exists_readRequest_pos (hc : c.Legal) (hinv : PortInv c q) (hp : q.ls.phase ≠ .ready) :
    ∃ mode max, readRequest c q.ls = some (mode, max) ∧ 0 < max := by
  obtain ⟨_, _, hchunk, _⟩ := hc
  obtain ⟨_, _, _, _, _, hacc, _⟩ := hinv
  cases hphase : q.ls.phase with
  | idle => exact ⟨.nonblock, _, by rw [readRequest, hphase], hchunk⟩
  | accumulating =>
    cases hf : c.framing with
    | silence => exact ⟨.timed, _, by simp only [readRequest, hphase, hf], hchunk⟩
    | fixedPrefix =>
      obtain ⟨_, hexp, _⟩ := hacc hf hphase
      exact ⟨.timed, _, by simp only [readRequest, hphase, hf], Nat.lt_min.mpr ⟨hchunk, hexp⟩⟩
  | ready => exact absurd hphase hp

/-- A read of at least one byte that meets a gap finds nothing and consumes the gap, whether it is silence, an error or
an arrival of no bytes (R182). -/
theorem portStepRead_of_gap {mode : ReadMode} {max : Nat} {a : Arrival} {tape : List Arrival}
    (hreq : readRequest c q.ls = some (mode, max)) (hmax : 0 < max) (htape : q.stream.tape = a :: tape)
    (ha : a.isGap = true) : portStepRead c p q = some (.empty, { q.stream with tape := tape }) := by
  have hnz : max ≠ 0 := Nat.pos_iff_ne_zero.mp hmax
  unfold portStepRead
  simp only [hreq, portRead, hnz, if_false, nextArrival, htape]
  cases a with
  | silence => rfl
  | error => rfl
  | bytes bs =>
    have hnil : bs = [] := by simpa [Arrival.isGap] using ha
    simp only [hnil, if_true, normalise_empty]

/-- A step that makes a read while SHUTDOWN is deasserted is of a kind that reads. -/
theorem exists_readUpdate {x : ReadResult × Stream} (hs : s.shutdown = false)
    (hread : portStepRead s.cfg p q = some x) :
    ∃ k update, (stepKey s p q).InRow k ∧ readUpdate s.cfg k = some update := by
  obtain ⟨k, hk⟩ := kindOf_total s p q
  have hrow := inRow_of_kindOf hk
  have hready : q.ls.phase ≠ .ready := fun hp => by simp [portStepRead_none.mpr hp] at hread
  refine ⟨k, ?_⟩
  cases k with
  | idleDrain | idleAdvance | silAppend | silWait | silBoundary | fixAppend | fixWait | fixAbort =>
    exact ⟨_, hrow, rfl⟩
  | shutdown => exact absurd (shutdown_of_stepEvent hrow) (by simp [hs])
  | readyError | readyInvalid | readyEmit | readyBcastDrop => exact absurd hrow.2.1 hready

/-- Of two records written to one port in turn the second stays. -/
theorem State.setPort_setPort (s : State) (p : Nat) (q q' : Port) :
    (s.setPort p q).setPort p q' = s.setPort p q' := by
  simp only [State.setPort, List.set_set]

/-- An illegal CFG gives the step no meaning (R251). -/
theorem step_of_not_legal (hc : ¬ s.cfg.Legal) : step s = .refused .illegalConfig := if_neg hc

/-- A step sees its port's stream through its read alone: with another stream that gives the same read and is left the
same, it is the same step. -/
theorem step_setPort_of_same_read {q₂ : Port} {x : ReadResult × Stream} {rest : List Turn} (hc : s.cfg.Legal)
    (hsched : s.schedule = .port p :: rest) (hq : s.ports[p]? = some q) (hr : q.run = .running)
    (hs : s.shutdown = false) (hrun : q₂.run = q.run) (hls : q₂.ls = q.ls)
    (hread : portStepRead s.cfg p q = some x) (hread₂ : portStepRead s.cfg p q₂ = some x) :
    step s = step (s.setPort p q₂) := by
  obtain ⟨r, st⟩ := x
  obtain ⟨k, update, hrow, hu⟩ := exists_readUpdate hs hread
  have hkey : stepKey (s.setPort p q₂) p q₂ = stepKey s p q := by
    simp only [stepKey, stepEvent, State.setPort_cfg, State.setPort_shutdown, hread, hread₂, hls]
  have hexec := exec_read (s := s.setSchedule rest) hq hr hrow hu hread
  have hexec₂ := exec_read (s := (s.setPort p q₂).setSchedule rest) (State.setPort_self _ _ _ hq) (hrun.trans hr)
    (hkey ▸ hrow) hu hread₂
  rw [step_of_exec hc hsched hexec, step_of_exec (s := s.setPort p q₂) hc hsched hexec₂, hrun, hls]
  exact congrArg Host.Outcome.next (State.setPort_setPort (s.setSchedule rest) p _ _).symm

end Gap

/-! ### The statements -/

/-- Settles O44: the step answers alike where its port sees the same, and writes its own port and the sink alone. -/
theorem portsAreIndependent : Obligations.PortsAreIndependent := by
  intro s t s' k p hcfg hshut hsink hport h
  have hagree : AgreeAt p s t := ⟨hcfg.symm, hshut.symm, hsink.symm, hport.symm⟩
  obtain ⟨t', ht, hport', hsink'⟩ := hagree.answersAlike h
  obtain ⟨q, hstep⟩ := exec_stepKind_next ht
  obtain ⟨hc, hs, hsched, _, hparked, hdraws, hresult⟩ := hstep.frame
  exact ⟨t', ht, hport', hsink', fun j hj => hstep.other hj.symm, hc, hs, hresult, hsched, hparked, hdraws, hstep.added⟩

/-- Settles O45: of the effects of a step, only a read writes a byte source, and only an accepted Emit the log. -/
theorem atMostOneReadOrOneEmit : Obligations.AtMostOneReadOrOneEmit := by
  intro i s s' h
  obtain ⟨r, rfl, _⟩ | ⟨k, p, q, _, hport, _, _, heffect⟩ := exec_next h
  · exact .inl ⟨rfl, rfl⟩
  · cases heffect with
    | stop => exact .inl ⟨rfl, setPort_streams_of_same hport rfl⟩
    | read hu hread => exact .inr (.inl ⟨rfl, p, q, _, _, hport, hread, setPort_streams hport⟩)
    | discard => exact .inl ⟨rfl, setPort_streams_of_same hport rfl⟩
    | @accept _ _ sink _ _ hacc =>
      exact .inr (.inr ⟨⟨_, hacc⟩, setPort_streams_of_same (s := s.setSink sink) hport rfl⟩)
    | hold hacc => exact .inl ⟨hacc, rfl⟩

/-- Settles O47: the frame decodes from the packet, so its bytes are the packet, which R195 and R59 speak of. -/
theorem emittedFrameIsThePacket : Obligations.EmittedFrameIsThePacket := by
  intro s s' p q r _ hq hinv h hacc
  obtain ⟨q₀, hport, _, hk, heffect⟩ := exec_stepKind_next (k := .readyEmit) h
  cases hq.symm.trans hport
  obtain ⟨_, hp, herr, hverdict⟩ := inRow_of_kindOf hk
  cases heffect with
  | read hu => cases hu
  | discard hd => simp at hd
  | hold hsame => simp [hsame] at hacc
  | @accept handle f sink hhandle hd hlog =>
    have hr : { port := handle, frame := f } = r := by simpa [hlog] using hacc
    subst hr
    obtain ⟨_, _, _, hbytes⟩ := decodeRtu_ok hd
    have haddr : s.cfg.broadcast = .drop → f.address ≠ 0#8 := fun hdrop =>
      address_ne_zero_of_verdict hd (hverdict.resolve_right (by simp [stepKey, hdrop]))
    refine ⟨hbytes, requestInv_of_decodeRtu (List.mem_of_getElem? hhandle) hinv hp herr hd haddr, hhandle,
      fun total hseg => ?_⟩
    obtain ⟨_, hsegment⟩ := hseg
    rw [hbytes]
    exact hsegment herr

/-- Settles O42: the step that a RUNNING port's state selects answers, and stops no port but by RA_SHUTDOWN. -/
theorem reassemblerNeverStopsButByShutdown : Obligations.ReassemblerNeverStopsButByShutdown := by
  intro s p rest hinv hsched hp
  obtain ⟨hc, hlen, _⟩ := hinv
  have hq : s.ports[p]? = some s.ports[p] := List.getElem?_eq_getElem (hlen ▸ hp)
  cases hr : s.ports[p].run with
  | stopped =>
    refine ⟨_, stoppedPortTakesNoStep s p _ rest hc hq hr hsched, fun j a b ha hrun hb hstop => ?_⟩
    cases ha.symm.trans hb
    cases hrun.symm.trans hstop
  | running =>
    obtain ⟨k, hk⟩ := kindOf_total (s.setSchedule rest) p s.ports[p]
    obtain ⟨s', hs'⟩ := exec_selected_answers (s := s.setSchedule rest) hq hr hk (hc.1 ▸ hp)
    refine ⟨s', step_of_exec hc hsched hs', fun j a b ha hrun hb hstop => ?_⟩
    obtain ⟨_, hstep⟩ := exec_stepKind_next hs'
    by_contra hs
    have hsame : b.run = a.run := hstep.run_eq (by simpa using hs) ha hb
    rw [hrun, hstop] at hsame
    cases hsame

/-- Settles O38: the read finds nothing either way, and leaves the same stream. -/
theorem readErrorActsAsEmptyRead : Obligations.ReadErrorActsAsEmptyRead := by
  rintro s p q phase tape rest ⟨hq, hr, hs, hphase⟩ hready hinv hsched htape
  by_cases hc : s.cfg.Legal
  · obtain ⟨mode, max, hreq, hmax⟩ := exists_readRequest_pos hc hinv (hphase ▸ hready)
    exact step_setPort_of_same_read hc hsched hq hr hs rfl rfl (portStepRead_of_gap hreq hmax htape rfl)
      (portStepRead_of_gap hreq hmax rfl rfl)
  · rw [step_of_not_legal hc, step_of_not_legal (s := s.setPort p _) hc]

end Sys2Proof.Machine
end

section
/-! SUPPORT. A run of one port's turns, followed through what the port shows: the gap that ends any earlier attempt, the
pieces of a frame, and the Emit (spec/45_reassembler.md R184 to R196). Settles O48. -/

namespace Sys2Proof.Machine

/-! ### Runs -/

/-- A run goes on from where its first part ended. -/
theorem run_add {M : Host.Core} {m n : Nat} {s t : M.State} (h : M.run m s = .next t) :
    M.run (m + n) s = M.run n t := by
  induction m generalizing s with
  | zero =>
    cases h
    rw [Nat.zero_add]
  | succ m ih =>
    rw [Nat.succ_add]
    simp only [Host.Core.run] at h ⊢
    cases hstep : M.step s with
    | next u =>
      rw [hstep] at h
      exact ih h
    | fault r =>
      rw [hstep] at h
      cases h
    | refused r =>
      rw [hstep] at h
      cases h

/-- A run of one step is that step. -/
theorem run_one {s t : State} (h : step s = .next t) : Host.Core.run core 1 s = .next t := by
  have hstep : core.step s = .next t := h
  simp only [Host.Core.run, hstep]

/-! ### What a port shows -/

/-- All that the coming steps of a RUNNING port depend on, with the log of the sink: its ListenState, what its stream
lists, and the listed answers of the sink. -/
structure PortView where
  ls : ListenState
  tape : List Arrival
  answers : List Bool
  accepted : List Request

/-- In `s`, whose CFG is `c` and where SHUTDOWN is deasserted, port `p` is RUNNING and shows `v`. -/
structure Shows (c : Cfg) (p : Nat) (v : PortView) (s : State) : Prop where
  cfg : s.cfg = c
  shutdown : s.shutdown = false
  answers : s.sink.answers = v.answers
  accepted : s.sink.accepted = v.accepted
  port : ∃ draws, s.ports[p]? = some { run := .running, ls := v.ls, stream := { tape := v.tape, draws := draws } }

/-- At most `n` turns of port `p` lead from any state where it shows `v` to one where it shows `v'`; the rest of the
`n` stay listed. -/
def Leads (c : Cfg) (p n : Nat) (v v' : PortView) : Prop :=
  ∀ (s : State) (later : List Turn), Shows c p v s → s.schedule = List.replicate n (.port p) ++ later →
    ∃ j s', j ≤ n ∧ Host.Core.run core j s = .next s' ∧ Shows c p v' s' ∧
      s'.schedule = List.replicate (n - j) (.port p) ++ later

section Leads

variable {c : Cfg} {p m n : Nat} {v v' v'' : PortView}

/-- No turn leads from a view to itself. -/
theorem Leads.refl (v : PortView) : Leads c p 0 v v := fun s _ hs hsched => ⟨0, s, le_rfl, rfl, hs, hsched⟩

/-- The turns of two runs add up. -/
theorem Leads.trans (h : Leads c p m v v') (h' : Leads c p n v' v'') : Leads c p (m + n) v v'' := by
  intro s later hs hsched
  obtain ⟨i, t, hi, hrun, ht, htsched⟩ := h s (List.replicate n (.port p) ++ later) hs (by
    rw [hsched, List.replicate_add, List.append_assoc])
  obtain ⟨j, u, hj, hrun', hu, husched⟩ := h' t (List.replicate (m - i) (.port p) ++ later) ht (by
    rw [htsched, ← List.append_assoc, ← List.append_assoc, List.replicate_append_replicate,
      List.replicate_append_replicate, Nat.add_comm])
  refine ⟨i + j, u, by omega, (run_add hrun).trans hrun', hu, ?_⟩
  rw [husched, ← List.append_assoc, List.replicate_append_replicate]
  congr 2
  omega

/-- More turns lead there too. -/
theorem Leads.mono (h : Leads c p m v v') (hmn : m ≤ n) : Leads c p n v v' := by
  intro s later hs hsched
  obtain ⟨j, t, hj, hrun, ht, htsched⟩ := h s (List.replicate (n - m) (.port p) ++ later) hs (by
    rw [hsched, ← List.append_assoc, List.replicate_append_replicate, Nat.add_sub_cancel' hmn])
  refine ⟨j, t, hj.trans hmn, hrun, ht, ?_⟩
  rw [htsched, ← List.append_assoc, List.replicate_append_replicate]
  congr 2
  omega

/-- A step kind of the port that answers in every state showing `v` leads on with one turn. -/
theorem leads_of_exec (hc : c.Legal)
    (h : ∀ s, Shows c p v s → ∃ (k : StepKind) (s' : State), exec (k.instr p) s = .next s' ∧ Shows c p v' s') :
    Leads c p 1 v v' := by
  intro s later hs hsched
  obtain ⟨k, s', hexec, hs'⟩ := h (s.setSchedule later) ⟨hs.cfg, hs.shutdown, hs.answers, hs.accepted, hs.port⟩
  obtain ⟨_, _, hkept, _⟩ := exec_frame hexec
  exact ⟨1, s', le_rfl, run_one (step_of_exec (hs.cfg ▸ hc) hsched hexec), hs', hkept⟩

end Leads

/-! ### One turn -/

/-- The selector of a step, from CFG, the ListenState and the event. -/
def attemptKey (c : Cfg) (ls : ListenState) (event : Event) : StepKey where
  phase := ls.phase
  event := event
  framing := c.framing
  broadcast := c.broadcast
  packetEmpty := ls.packet.isEmpty
  error := ls.error
  verdict := verdictOf ls.packet

/-- Nothing else selects a step. -/
theorem stepKey_eq_attemptKey (s : State) (p : Nat) (q : Port) :
    stepKey s p q = attemptKey s.cfg q.ls (stepEvent s p q) := rfl

section OneTurn

variable {c : Cfg} {p : Nat} {k : StepKind} {ls : ListenState} {tape : List Arrival} {answers : List Bool}
  {accepted : List Request}

/-- A turn that reads. -/
theorem leads_read {update : Bytes → ListenState → ListenState} {r : ReadResult} {tape' : List Arrival} (hc : c.Legal)
    (hread : ∀ draws, portStepRead c p { run := .running, ls := ls, stream := { tape := tape, draws := draws } } =
      some (r, { tape := tape', draws := draws }))
    (hrow : (attemptKey c ls r.event).InRow k) (hu : readUpdate c k = some update) :
    Leads c p 1 ⟨ls, tape, answers, accepted⟩ ⟨update r.bytes ls, tape', answers, accepted⟩ := by
  refine leads_of_exec hc fun s hs => ?_
  obtain ⟨rfl, hshut, hans, hacc, draws, hq⟩ := hs
  rw [← stepEvent_of_read hshut (hread draws)] at hrow
  exact ⟨k, _, exec_read hq rfl hrow hu (hread draws), rfl, hshut, hans, hacc, draws, State.setPort_self _ _ _ hq⟩

/-- A turn that meets a gap outside READY. -/
theorem leads_gap {update : Bytes → ListenState → ListenState} {a : Arrival} {run : RunState} {st : Stream}
    (hc : c.Legal) (hinv : PortInv c { run := run, ls := ls, stream := st }) (hp : ls.phase ≠ .ready)
    (ha : a.isGap = true) (hrow : (attemptKey c ls .empty).InRow k) (hu : readUpdate c k = some update) :
    Leads c p 1 ⟨ls, a :: tape, answers, accepted⟩ ⟨update [] ls, tape, answers, accepted⟩ := by
  obtain ⟨mode, max, hreq, hmax⟩ := exists_readRequest_pos hc hinv hp
  exact leads_read (r := .empty) hc (fun _ => portStepRead_of_gap hreq hmax rfl ha) hrow hu

/-- A turn that discards the attempt (R190, R192, R193). -/
theorem leads_discard (hc : c.Legal) (hp : ls.phase = .ready) (hrow : (attemptKey c ls .none).InRow k)
    (hk : k = .readyError ∨ k = .readyInvalid ∨ k = .readyBcastDrop) :
    Leads c p 1 ⟨ls, tape, answers, accepted⟩ ⟨ListenState.reset, tape, answers, accepted⟩ := by
  refine leads_of_exec hc fun s hs => ?_
  obtain ⟨rfl, hshut, hans, hacc, draws, hq⟩ := hs
  rw [← stepEvent_of_ready (p := p) (q := { run := .running, ls := ls, stream := { tape := tape, draws := draws } })
    hshut hp] at hrow
  exact ⟨k, _, exec_discard hq rfl hrow hk, rfl, hshut, hans, hacc, draws, State.setPort_self _ _ _ hq⟩

/-- A sink whose next answer is yes accepts the Request (R31). -/
theorem emit_of_answers {sink : Sink} {more : List Bool} (h : sink.answers = true :: more) (r : Request) :
    emit r sink = (true, { sink with answers := more, accepted := sink.accepted ++ [r] }) := by
  simp only [emit, sinkAnswer, h]

/-- A turn that emits (R191). -/
theorem leads_emit {handle : Nat} {f : RtuFrame} (hc : c.Legal) (hp : ls.phase = .ready) (he : ls.error = false)
    (hd : decodeRtu ls.packet = .ok f) (hf : f.address ≠ 0#8 ∨ c.broadcast = .emit)
    (hhandle : c.portIds[p]? = some handle) :
    Leads c p 1 ⟨ls, tape, true :: answers, accepted⟩
      ⟨ListenState.reset, tape, answers, accepted ++ [{ port := handle, frame := f }]⟩ := by
  refine leads_of_exec hc fun s hs => ?_
  obtain ⟨rfl, hshut, hans, hacc, draws, hq⟩ := hs
  refine ⟨.readyEmit, _, exec_raReadyEmit_accept hq rfl (inRow_readyEmit hshut hp he hd hf) hhandle hd
    (emit_of_answers hans _), rfl, hshut, rfl, ?_, draws, State.setPort_self _ _ _ hq⟩
  simp only [State.setPort_sink, State.setSink_sink, hacc]

/-- Whatever a READY port holds, a turn ends the attempt, and emits at most one Request (R190 to R193). -/
theorem leads_ready {handle : Nat} (hc : c.Legal) (hp : ls.phase = .ready) (hhandle : c.portIds[p]? = some handle) :
    ∃ early more, early.length ≤ 1 ∧ Leads c p 1 ⟨ls, tape, true :: true :: answers, accepted⟩
      ⟨ListenState.reset, tape, true :: more, accepted ++ early⟩ := by
  have discarded (hrow : ∃ k, (attemptKey c ls .none).InRow k ∧
      (k = .readyError ∨ k = .readyInvalid ∨ k = .readyBcastDrop)) :
      ∃ early more, early.length ≤ 1 ∧ Leads c p 1 ⟨ls, tape, true :: true :: answers, accepted⟩
        ⟨ListenState.reset, tape, true :: more, accepted ++ early⟩ := by
    obtain ⟨k, hrow, hk⟩ := hrow
    refine ⟨[], true :: answers, by simp, ?_⟩
    rw [List.append_nil]
    exact leads_discard hc hp hrow hk
  cases he : ls.error with
  | true => exact discarded ⟨.readyError, ⟨rfl, hp, he⟩, .inl rfl⟩
  | false =>
    cases hd : decodeRtu ls.packet with
    | error reason => exact discarded ⟨.readyInvalid, ⟨rfl, hp, he, verdictOf_error hd⟩, .inr (.inl rfl)⟩
    | ok f =>
      by_cases hf : f.address ≠ 0#8 ∨ c.broadcast = .emit
      · exact ⟨[_], answers, le_rfl, leads_emit hc hp he hd hf hhandle⟩
      · obtain ⟨h0, hemit⟩ := not_or.mp hf
        have hdrop : c.broadcast = .drop := by
          cases hb : c.broadcast with
          | emit => exact absurd hb hemit
          | drop => rfl
        exact discarded ⟨.readyBcastDrop, ⟨rfl, hp, he, verdictOf_broadcast hd (not_not.mp h0), hdrop⟩,
          .inr (.inr rfl)⟩

end OneTurn

/-! ### The gap -/

section Gap

variable {c : Cfg} {p : Nat} {ls : ListenState} {gap tail : List Arrival} {answers : List Bool}
  {accepted : List Request} {run : RunState} {st : Stream}

/-- The ListenState of a new attempt. -/
abbrev freshAttempt (c : Cfg) : ListenState := newAttempt c ListenState.reset

/-- A new attempt waits through a gap (R186, R188). -/
theorem leads_wait (hc : c.Legal) (hgap : ∀ a ∈ gap, a.isGap = true) :
    Leads c p gap.length ⟨freshAttempt c, gap ++ tail, answers, accepted⟩
      ⟨freshAttempt c, tail, answers, accepted⟩ := by
  induction gap with
  | nil => exact Leads.refl _
  | cons a gap ih =>
    obtain ⟨ha, hgap⟩ := List.forall_mem_cons.mp hgap
    have hinv : PortInv c { run := .running, ls := freshAttempt c, stream := Stream.fresh } := portInv_newAttempt _
    have hone : Leads c p 1 ⟨freshAttempt c, a :: (gap ++ tail), answers, accepted⟩
        ⟨freshAttempt c, gap ++ tail, answers, accepted⟩ := by
      cases hf : c.framing with
      | silence => exact leads_gap (k := .silWait) hc hinv (by simp) ha ⟨rfl, rfl, hf, rfl⟩ rfl
      | fixedPrefix => exact leads_gap (k := .fixWait) hc hinv (by simp) ha ⟨rfl, rfl, hf, rfl⟩ rfl
    rw [List.length_cons, Nat.add_comm]
    exact hone.trans (ih hgap)

/-- A port in IDLE starts a new attempt within a gap of one item or more (R184). -/
theorem leads_idle_gap (hc : c.Legal) (hne : gap ≠ []) (hgap : ∀ a ∈ gap, a.isGap = true) :
    Leads c p gap.length ⟨ListenState.reset, gap ++ tail, answers, accepted⟩
      ⟨freshAttempt c, tail, answers, accepted⟩ := by
  obtain ⟨a, gap, rfl⟩ := List.exists_cons_of_ne_nil hne
  obtain ⟨ha, hgap⟩ := List.forall_mem_cons.mp hgap
  have hinv : PortInv c { run := .running, ls := ListenState.reset, stream := Stream.fresh } := portInv_reset
  have hstart : Leads c p 1 ⟨ListenState.reset, a :: (gap ++ tail), answers, accepted⟩
      ⟨freshAttempt c, gap ++ tail, answers, accepted⟩ :=
    leads_gap (k := .idleAdvance) hc hinv (by simp [ListenState.reset]) ha ⟨rfl, rfl⟩ rfl
  rw [List.length_cons, Nat.add_comm]
  exact hstart.trans (leads_wait hc hgap)

/-- An accumulating attempt with an empty packet is a new one (R181). -/
theorem eq_freshAttempt (hinv : PortInv c { run := run, ls := ls, stream := st }) (hp : ls.phase = .accumulating)
    (hnil : ls.packet = []) : ls = freshAttempt c := by
  obtain ⟨phase, packet, expected, error⟩ := ls
  obtain ⟨_, hexp, _, _, herr, hacc, _⟩ := hinv
  simp only at hp hnil hexp herr
  subst hp hnil
  cases hf : c.framing with
  | silence => simp only [newAttempt, hf, hexp hf, herr]
  | fixedPrefix =>
    obtain ⟨_, _, hcase⟩ := hacc hf rfl
    have h8 : expected = 8 := by simpa using hcase
    simp only [newAttempt, hf, prefixLen, h8, herr]

/-- A gap ends an attempt with a nonempty packet (R186, R188). -/
theorem leads_end {a : Arrival} (hc : c.Legal) (hinv : PortInv c { run := run, ls := ls, stream := st })
    (hp : ls.phase = .accumulating) (hne : ls.packet ≠ []) (ha : a.isGap = true) :
    ∃ ls', ls'.phase = .ready ∧ Leads c p 1 ⟨ls, a :: tail, answers, accepted⟩ ⟨ls', tail, answers, accepted⟩ := by
  have hready : ls.phase ≠ .ready := by simp [hp]
  have hpacket : ls.packet.isEmpty = false := by simpa using hne
  cases hf : c.framing with
  | silence =>
    exact ⟨toReady ls, rfl, leads_gap (k := .silBoundary) hc hinv hready ha ⟨rfl, hp, hf, hpacket⟩ rfl⟩
  | fixedPrefix =>
    exact ⟨toReady (raiseError ls), rfl, leads_gap (k := .fixAbort) hc hinv hready ha ⟨rfl, hp, hf, hpacket⟩ rfl⟩

/-- Whatever a port was doing, a gap of two items or more leads to a new attempt, with at most one Request of the
earlier one (R196). -/
theorem leads_past_gap {handle : Nat} (hc : c.Legal) (hinv : PortInv c { run := run, ls := ls, stream := st })
    (hhandle : c.portIds[p]? = some handle) (hlen : 2 ≤ gap.length) (hgap : ∀ a ∈ gap, a.isGap = true) :
    ∃ early more, early.length ≤ 1 ∧ (ls.packet = [] → early = []) ∧
      Leads c p (gap.length + 1) ⟨ls, gap ++ tail, true :: true :: answers, accepted⟩
        ⟨freshAttempt c, tail, true :: more, accepted ++ early⟩ := by
  have ⟨_, _, hidle, hready, _⟩ := hinv
  have hne : gap ≠ [] := List.ne_nil_of_length_pos (by omega)
  have unemitted (h : Leads c p gap.length ⟨ls, gap ++ tail, true :: true :: answers, accepted⟩
      ⟨freshAttempt c, tail, true :: true :: answers, accepted⟩) :
      ∃ early more, early.length ≤ 1 ∧ (ls.packet = [] → early = []) ∧
        Leads c p (gap.length + 1) ⟨ls, gap ++ tail, true :: true :: answers, accepted⟩
          ⟨freshAttempt c, tail, true :: more, accepted ++ early⟩ := by
    refine ⟨[], true :: answers, by simp, fun _ => rfl, ?_⟩
    rw [List.append_nil]
    exact h.mono (Nat.le_succ _)
  cases hp : ls.phase with
  | idle =>
    have hls : ls = ListenState.reset := hidle hp
    rw [hls] at unemitted ⊢
    exact unemitted (leads_idle_gap hc hne hgap)
  | ready =>
    obtain ⟨early, more, hearly, hone⟩ := leads_ready (tape := gap ++ tail) (accepted := accepted) hc hp hhandle
    refine ⟨early, more, hearly, fun hnil => absurd hnil (hready hp), ?_⟩
    rw [Nat.add_comm]
    exact hone.trans (leads_idle_gap hc hne hgap)
  | accumulating =>
    by_cases hnil : ls.packet = []
    · have hls := eq_freshAttempt hinv hp hnil
      rw [hls] at unemitted ⊢
      exact unemitted (leads_wait hc hgap)
    · obtain ⟨a, gap, rfl⟩ := List.exists_cons_of_ne_nil hne
      obtain ⟨ha, hgap⟩ := List.forall_mem_cons.mp hgap
      have hne' : gap ≠ [] := List.ne_nil_of_length_pos (by simp at hlen; omega)
      obtain ⟨ls', hp', hend⟩ := leads_end (p := p) (tail := gap ++ tail) (answers := true :: true :: answers)
        (accepted := accepted) hc hinv hp hnil ha
      obtain ⟨early, more, hearly, hone⟩ :=
        leads_ready (tape := gap ++ tail) (answers := answers) (accepted := accepted) hc hp' hhandle
      refine ⟨early, more, hearly, fun h => absurd h hnil, ?_⟩
      exact ((hend.trans hone).trans (leads_idle_gap hc hne' hgap)).mono (by simp; omega)

end Gap

/-! ### The frame -/

/-- Arrivals that each hold at least one byte. -/
def AllBytes (pieces : List Arrival) : Prop := ∀ a ∈ pieces, a.isGap = false

/-- The bytes of some arrivals, in order. -/
abbrev bytesOf (pieces : List Arrival) : Bytes := pieces.flatMap Arrival.content

section Frame

variable {c : Cfg} {p : Nat} {ls : ListenState} {pieces tail : List Arrival} {answers : List Bool}
  {accepted : List Request} {G : Bytes}

/-- Pieces without bytes are no pieces. -/
theorem AllBytes.eq_nil (h : AllBytes pieces) (hnil : bytesOf pieces = []) : pieces = [] := by
  cases pieces with
  | nil => rfl
  | cons a pieces =>
    have ha : a.isGap = false := h a List.mem_cons_self
    have hcontent := List.flatMap_eq_nil_iff.mp hnil a List.mem_cons_self
    cases a with
    | bytes bs =>
      have hbs : bs = [] := hcontent
      simp [Arrival.isGap, hbs] at ha
    | silence => cases ha
    | error => cases ha

/-- A read of pieces returns some of their first bytes and leaves pieces that hold the others (R30). -/
theorem portRead_of_allBytes {max : Nat} (hmax : 0 < max) (h : AllBytes pieces) (hne : bytesOf pieces ≠ []) :
    ∃ bs pieces', 1 ≤ bs.length ∧ bs.length ≤ max ∧ AllBytes pieces' ∧ bytesOf pieces = bs ++ bytesOf pieces' ∧
      ∀ mode draws, portRead p mode max { tape := pieces ++ tail, draws := draws } =
        (.data bs, { tape := pieces' ++ tail, draws := draws }) := by
  have hnz : max ≠ 0 := Nat.pos_iff_ne_zero.mp hmax
  cases pieces with
  | nil => exact absurd rfl hne
  | cons a pieces =>
    obtain ⟨ha, hpieces⟩ := List.forall_mem_cons.mp h
    cases a with
    | silence => cases ha
    | error => cases ha
    | bytes bs =>
      have hbs : bs ≠ [] := by simpa [Arrival.isGap] using ha
      by_cases hle : bs.length ≤ max
      · refine ⟨bs, pieces, List.length_pos_iff.mpr hbs, hle, hpieces, rfl, fun mode draws => ?_⟩
        simp only [portRead, hnz, if_false, nextArrival, List.cons_append, hbs, hle, if_true]
      · have hdrop : (Arrival.bytes (bs.drop max)).isGap = false := by simp [Arrival.isGap]; omega
        refine ⟨bs.take max, .bytes (bs.drop max) :: pieces, by simp; omega, by simp,
          List.forall_mem_cons.mpr ⟨hdrop, hpieces⟩, ?_, fun mode draws => ?_⟩
        · simp only [bytesOf, List.flatMap_cons, Arrival.content, ← List.append_assoc, List.take_append_drop]
        · simp only [portRead, hnz, if_false, nextArrival, List.cons_append, hbs, hle]

/-- A turn in ACCUMULATING that reads pieces takes some of their first bytes into the attempt (R186, R188). -/
theorem leads_piece {k : StepKind} {update : Bytes → ListenState → ListenState} {run : RunState} {st : Stream}
    (hc : c.Legal) (hinv : PortInv c { run := run, ls := ls, stream := st }) (hp : ls.phase = .accumulating)
    (h : AllBytes pieces) (hne : bytesOf pieces ≠ []) (hrow : (attemptKey c ls .data).InRow k)
    (hu : readUpdate c k = some update) :
    ∃ bs pieces', 1 ≤ bs.length ∧ (c.framing = .fixedPrefix → bs.length ≤ ls.expected) ∧ AllBytes pieces' ∧
      bytesOf pieces = bs ++ bytesOf pieces' ∧ Leads c p 1 ⟨ls, pieces ++ tail, answers, accepted⟩
        ⟨update bs ls, pieces' ++ tail, answers, accepted⟩ := by
  obtain ⟨mode, max, hreq, hmax⟩ := exists_readRequest_pos hc hinv (by simp [hp])
  obtain ⟨bs, pieces', hpos, hle, h', hbytes, hread⟩ := portRead_of_allBytes (p := p) (tail := tail) hmax h hne
  obtain ⟨_, hexp⟩ := readRequest_le hreq
  refine ⟨bs, pieces', hpos, fun hf => hle.trans (hexp hf hp), h', hbytes, ?_⟩
  refine leads_read (r := .data bs) hc (fun draws => ?_) hrow hu
  simp only [portStepRead, hreq, hread, normalise_data]

/-- A bounded append of bytes that fit (R189). -/
theorem appendBounded_of_fits {bs : Bytes} (h : (ls.packet ++ bs).length ≤ c.maxFrame) :
    appendBounded c bs ls = { ls with packet := ls.packet ++ bs } := by
  rw [List.length_append] at h
  exact if_neg (by omega)

/-- Under SILENCE an attempt takes in all pieces that fit max_frame (R186). -/
theorem leads_pieces_silence {run : RunState} {st : Stream} (hc : c.Legal) (hf : c.framing = .silence)
    (hinv : PortInv c { run := run, ls := ls, stream := st }) (hp : ls.phase = .accumulating)
    (h : AllBytes pieces) (hfits : (ls.packet ++ bytesOf pieces).length ≤ c.maxFrame) :
    Leads c p (bytesOf pieces).length ⟨ls, pieces ++ tail, answers, accepted⟩
      ⟨{ ls with packet := ls.packet ++ bytesOf pieces }, tail, answers, accepted⟩ := by
  have ⟨_, _, _, hmax, _⟩ := hc
  induction hn : (bytesOf pieces).length using Nat.strong_induction_on generalizing ls pieces with
  | _ n ih =>
    by_cases hnil : bytesOf pieces = []
    · rw [h.eq_nil hnil] at hn ⊢
      subst hn
      simpa using Leads.refl _
    · obtain ⟨bs, pieces', hpos, _, h', hbytes, hone⟩ :=
        leads_piece (k := .silAppend) (p := p) (tail := tail) (answers := answers) (accepted := accepted) hc hinv hp h
          hnil ⟨rfl, hp, hf⟩ rfl
      have hinv' : PortInv c { run := run, ls := appendBounded c bs ls, stream := st } :=
        portInv_appendBounded hinv (by omega) hf hp hpos
      rw [hbytes, ← List.append_assoc] at hfits ⊢
      have hfits' : (ls.packet ++ bs).length ≤ c.maxFrame := by rw [List.length_append] at hfits; omega
      rw [appendBounded_of_fits hfits'] at hone hinv'
      rw [hbytes, List.length_append] at hn
      exact (hone.trans (ih _ (by omega) hinv' hp h' hfits rfl)).mono (by omega)

/-- The phase after an append of FIXED_PREFIX (R188). -/
theorem appendFixed_phase (c : Cfg) (bs : Bytes) (ls : ListenState) :
    (appendFixed c bs ls).phase = ls.phase ∨ (appendFixed c bs ls).phase = .ready := by
  obtain ⟨_, heq⟩ | ⟨_, _, heq⟩ | ⟨_, _, heq⟩ := appendFixed_cases c bs ls
  · exact .inl (by rw [heq])
  · exact .inr (by rw [heq]; rfl)
  · rw [heq]
    obtain ⟨_, hsize⟩ | ⟨_, _, hsize⟩ | ⟨_, _, hsize⟩ :=
      sizePrefix_cases c { ls with packet := ls.packet ++ bs, expected := 0 }
    · exact .inr (by rw [hsize]; rfl)
    · exact .inr (by rw [hsize]; rfl)
    · exact .inl (by rw [hsize])

/-- The length FIXED_PREFIX gives a frame is told by any first part of 8 bytes or more (R187). -/
theorem frameLen_eq_of_append {packet rest : Bytes} (h : G = packet ++ rest) (h8 : 8 ≤ packet.length) :
    frameLen packet = frameLen G := by
  rw [h, frameLen_append packet rest h8]

/-- An accumulating attempt under FIXED_PREFIX does not hold the whole frame yet (R188). -/
theorem rest_ne_nil_of_accumulating {run : RunState} {st : Stream} {rest : Bytes} (hf : c.framing = .fixedPrefix)
    (hinv : PortInv c { run := run, ls := ls, stream := st }) (hp : ls.phase = .accumulating)
    (hG : G = ls.packet ++ rest) (hlen : G.length = frameLen G) : rest ≠ [] := by
  obtain ⟨_, _, _, _, _, hacc, _⟩ := hinv
  obtain ⟨_, hexp, hcase⟩ := hacc hf hp
  have hge := frameLen_ge G
  intro hnil
  have hall : G = ls.packet := by rw [hG, hnil, List.append_nil]
  rw [← hall] at hcase
  omega

/-- A READY attempt under FIXED_PREFIX without the error flag holds the whole frame (R188). -/
theorem rest_eq_nil_of_ready {run : RunState} {st : Stream} {rest : Bytes} (hf : c.framing = .fixedPrefix)
    (hinv : PortInv c { run := run, ls := ls, stream := st }) (hp : ls.phase = .ready) (herr : ls.error = false)
    (hG : G = ls.packet ++ rest) (hlen : G.length = frameLen G) : rest = [] := by
  obtain ⟨_, _, _, _, _, _, hframe⟩ := hinv
  have hcomplete : ls.packet.length = frameLen ls.packet := hframe hf hp herr
  have hge := frameLen_ge ls.packet
  have hsum : G.length = ls.packet.length + rest.length := by rw [hG, List.length_append]
  rw [frameLen_eq_of_append hG (by omega)] at hcomplete
  exact List.eq_nil_of_length_eq_zero (by omega)

/-- Taking in a first part of a frame that fits max_frame leaves the error flag clear (R188). -/
theorem appendFixed_error_of_fits {bs rest : Bytes} (herr : ls.error = false) (hG : G = ls.packet ++ bs ++ rest)
    (hfits : frameLen G ≤ c.maxFrame) : (appendFixed c bs ls).error = false := by
  rw [← Bool.not_eq_true, appendFixed_error]
  rintro (hset | ⟨_, h8, hover⟩)
  · simp [herr] at hset
  · rw [frameLen_eq_of_append hG h8.ge] at hover
    omega

/-- Under FIXED_PREFIX an attempt takes in the pieces of a frame of the length its first 8 bytes give, and is READY with
exactly that frame (R188). -/
theorem leads_pieces_fixed {run : RunState} {st : Stream} (hc : c.Legal) (hf : c.framing = .fixedPrefix)
    (hinv : PortInv c { run := run, ls := ls, stream := st }) (hp : ls.phase = .accumulating)
    (h : AllBytes pieces) (hG : G = ls.packet ++ bytesOf pieces) (hlen : G.length = frameLen G)
    (hfits : G.length ≤ c.maxFrame) :
    ∃ ls', ls'.phase = .ready ∧ ls'.error = false ∧ ls'.packet = G ∧
      Leads c p (bytesOf pieces).length ⟨ls, pieces ++ tail, answers, accepted⟩ ⟨ls', tail, answers, accepted⟩ := by
  have ⟨_, _, _, hmax, _⟩ := hc
  induction hn : (bytesOf pieces).length using Nat.strong_induction_on generalizing ls pieces with
  | _ n ih =>
    have ⟨_, _, _, _, _, hacc, _⟩ := hinv
    obtain ⟨herr, _⟩ := hacc hf hp
    obtain ⟨bs, pieces', hpos, hle, h', hbytes, hone⟩ :=
      leads_piece (k := .fixAppend) (p := p) (tail := tail) (answers := answers) (accepted := accepted) hc hinv hp h
        (rest_ne_nil_of_accumulating hf hinv hp hG hlen) ⟨rfl, hp, hf⟩ rfl
    have hinv' : PortInv c { run := run, ls := appendFixed c bs ls, stream := st } :=
      portInv_appendFixed hinv hmax hf hp hpos (hle hf)
    have hsplit : G = ls.packet ++ bs ++ bytesOf pieces' := by rw [hG, hbytes, List.append_assoc]
    have herr' : (appendFixed c bs ls).error = false := appendFixed_error_of_fits herr hsplit (hlen ▸ hfits)
    rw [← appendFixed_packet c] at hsplit
    rw [hbytes, List.length_append] at hn
    obtain hp' | hp' := appendFixed_phase c bs ls
    · obtain ⟨ls', hready, hclear, hpacket, hrest⟩ := ih _ (by omega) hinv' (hp'.trans hp) h' hsplit rfl
      exact ⟨ls', hready, hclear, hpacket, (hone.trans hrest).mono (by omega)⟩
    · have hnil := rest_eq_nil_of_ready hf hinv' hp' herr' hsplit hlen
      rw [h'.eq_nil hnil, List.nil_append] at hone
      exact ⟨_, hp', herr', by rw [hsplit, hnil, List.append_nil], hone.mono (by omega)⟩

/-- Under SILENCE an accumulating attempt keeps the invariant with any packet that fits max_frame. -/
theorem portInv_of_silence {run : RunState} {st : Stream} {packet : Bytes} (hf : c.framing = .silence)
    (hfits : packet.length ≤ c.maxFrame) (hne : packet ≠ []) :
    PortInv c { run := run, ls := { freshAttempt c with packet := packet }, stream := st } :=
  ⟨hfits, fun _ => by simp [newAttempt, hf], by simp, by simp, fun h => absurd h hne, by simp [hf], by simp [hf]⟩

/-- A new attempt takes in a whole frame and, at its end, is READY with it (R186, R188). -/
theorem leads_frame (hc : c.Legal) (h : AllBytes pieces) (hne : bytesOf pieces ≠ [])
    (hlen : c.framing = .fixedPrefix → (bytesOf pieces).length = frameLen (bytesOf pieces))
    (hfits : (bytesOf pieces).length ≤ c.maxFrame) :
    ∃ ls' tape', ls'.phase = .ready ∧ ls'.error = false ∧ ls'.packet = bytesOf pieces ∧
      Leads c p ((bytesOf pieces).length + 1) ⟨freshAttempt c, pieces ++ .silence :: tail, answers, accepted⟩
        ⟨ls', tape', answers, accepted⟩ := by
  have hinv : PortInv c { run := .running, ls := freshAttempt c, stream := Stream.fresh } := portInv_newAttempt _
  cases hf : c.framing with
  | fixedPrefix =>
    obtain ⟨ls', hready, hclear, hpacket, hleads⟩ :=
      leads_pieces_fixed (p := p) (tail := .silence :: tail) (answers := answers) (accepted := accepted) hc hf hinv rfl
        h rfl (hlen hf) hfits
    exact ⟨ls', _, hready, hclear, hpacket, hleads.mono (Nat.le_succ _)⟩
  | silence =>
    have hleads := leads_pieces_silence (p := p) (tail := .silence :: tail) (answers := answers) (accepted := accepted)
      hc hf hinv rfl h hfits
    have hend := leads_gap (k := .silBoundary) (p := p) (a := .silence) (tape := tail) (answers := answers)
      (accepted := accepted) hc (portInv_of_silence (run := .running) (st := Stream.fresh) hf hfits hne) (by simp) rfl
      ⟨rfl, rfl, hf, List.isEmpty_eq_false_iff.mpr hne⟩ rfl
    exact ⟨_, _, rfl, rfl, rfl, hleads.trans hend⟩

end Frame

/-! ### The statement -/

/-- Settles O48: the gap ends any earlier attempt and starts a new one, which takes in the frame and emits it. -/
theorem badFrameResilience : Obligations.BadFrameResilience := by
  intro s p q handle gap pieces rest f more later hinv hq hr hs hhandle htape hlen hgap hpieces hd hfits hframe hbcast
    hanswers hsched
  obtain ⟨hc, _, hports, _⟩ := hinv
  obtain ⟨hfour, _, _, hbytes⟩ := decodeRtu_ok hd
  have hne : bytesOf pieces ≠ [] := List.ne_nil_of_length_pos (Nat.lt_of_lt_of_le (by decide) hfour)
  have hshows : Shows s.cfg p ⟨q.ls, gap ++ (pieces ++ .silence :: rest), true :: true :: more, s.sink.accepted⟩ s := by
    refine ⟨rfl, hs, hanswers, rfl, q.stream.draws, ?_⟩
    rw [hq, ← hr, ← List.append_assoc, ← htape]
  obtain ⟨early, more', hearly, hnone, hstart⟩ :=
    leads_past_gap (tail := pieces ++ .silence :: rest) (answers := more) (accepted := s.sink.accepted) hc
      (portInv_of_same_ls (run := .running) (st := Stream.fresh) (hports q (List.mem_of_getElem? hq))) hhandle hlen hgap
  obtain ⟨ls', tape', hready, hclear, hpacket, hread⟩ :=
    leads_frame (p := p) (tail := rest) (answers := true :: more') (accepted := s.sink.accepted ++ early) hc hpieces hne
      hframe hfits
  have hemit := leads_emit (tape := tape') (answers := more') (accepted := s.sink.accepted ++ early) hc hready hclear
    (hpacket ▸ hd) (or_iff_not_imp_left.mpr fun h0 => hbcast (not_not.mp h0)) hhandle
  have hleads := ((hstart.trans hread).trans hemit).mono
    (show _ ≤ gap.length + (bytesOf pieces).length + 3 by omega)
  obtain ⟨n, s', hn, hrun, hend, _⟩ := hleads s later hshows hsched
  obtain ⟨draws, hport⟩ := hend.port
  exact ⟨n, s', early, hn, hrun, hend.accepted, hearly, hnone, hbytes, _, hport, rfl, rfl⟩

end Sys2Proof.Machine
end

section
/-! SUPPORT. A step that CFG or the straps of a reset forbid, and what a reset with legal straps leaves (spec R250,
R251). Settles O52 and O53. -/

namespace Sys2Proof.Machine

/-! ### Illegal values of CFG -/

/-- The ways in which CFG can hold an illegal value (R21, R251). -/
theorem not_legal_iff {c : Cfg} : ¬ c.Legal ↔ c.portIds.length ≠ c.numPorts ∨ ¬ c.portIds.Nodup ∨ c.readChunk = 0 ∨
    c.maxFrame < 8 ∨ c.readTimeout = 0 ∨ c.checkProtocolId = true := by
  simp only [Cfg.Legal, not_and_or, Nat.not_le, Nat.lt_one_iff, Nat.not_lt, Nat.le_zero, Bool.not_eq_false, ne_eq]

/-! ### The turn of a reset -/

section ResetTurn

variable {s : State} {c : Cfg}

/-- A reset turn with legal straps resets the machine that the turn leaves (R250). -/
theorem step_reset {rest : List Turn} (hs : s.cfg.Legal) (hsched : s.schedule = .reset c :: rest) (hc : c.Legal) :
    step s = .next (applyReset c (s.setSchedule rest)) := by
  rw [step_cons hs hsched, fetchTurn, if_pos hc, runFetched]

/-- A reset turn with illegal straps has no meaning (R251). -/
theorem step_reset_of_not_legal {rest : List Turn} (hs : s.cfg.Legal) (hsched : s.schedule = .reset c :: rest)
    (hc : ¬ c.Legal) : step s = .refused .illegalConfig := by
  rw [step_cons hs hsched, fetchTurn, if_neg hc, runFetched]

/-- A reset machine has as many ports as its straps say (R250). -/
theorem applyReset_ports_length (c : Cfg) (s : State) : (applyReset c s).ports.length = c.numPorts := by
  simp only [applyReset, List.length_map, List.length_range]

/-- Every port of a reset machine is a restarted one (R250). -/
theorem applyReset_getElem? {p : Nat} (hp : p < c.numPorts) :
    (applyReset c s).ports[p]? = some (resetPort s p) := by
  simp only [applyReset, List.getElem?_map, List.getElem?_range hp, Option.map_some]

/-- The first read after a reset does not block, and asks for at most read_chunk bytes (R184). -/
theorem readRequest_reset (c : Cfg) : readRequest c ListenState.reset = some (.nonblock, c.readChunk) := rfl

end ResetTurn

/-! ### The statements -/

/-- Settles O53: each of the values makes CFG illegal, which a step looks at before it takes a turn. -/
theorem illegalConfigurationIsRefused : Obligations.IllegalConfigurationIsRefused :=
  fun _ h => step_of_not_legal (not_legal_iff.mpr h)

/-- Settles O52: legal straps make the turn a reset, whose ports take up the byte sources by their numbers. -/
theorem resetRestartsTheBlock : Obligations.ResetRestartsTheBlock := by
  intro s c rest hs hsched
  refine ⟨fun hc => ?_, step_reset_of_not_legal hs hsched⟩
  refine ⟨_, step_reset hs hsched hc, rfl, applyReset_ports_length c _, fun p hp => ?_, rfl, rfl, rfl, rfl, rfl⟩
  exact ⟨_, applyReset_getElem? hp, rfl, rfl, readRequest_reset c, rfl, fun q hq => streams_of_port hq⟩

end Sys2Proof.Machine
end
